-- ==== Sys2Proof/Word.lean ====
section
/-! DEFINITION. The words of APEDEC: 32-bit command words, registers and CSRs, bytes, and the numbers of the
data registers (spec/00_scope.md R9, R10; spec/10_state.md R20). -/

namespace Sys2Proof

/-- A word is 32 bits, bit 31 most significant (R9). -/
abbrev Word := BitVec 32

/-- A byte of the byte source, the window or the output stream (R60, R66). -/
abbrev Byte := BitVec 8

/-- The number of a data register, `d0` to `d15` (R20). -/
abbrev Reg := Fin 16

end Sys2Proof
end

