-- ==== Sys2Proof/Machine/Arith.lean ====
section
/-! DEFINITION. The arithmetic of spec/00_scope.md R10 and R11: exact integers, narrowed explicitly. `s(v)` is
`v.toInt` and `u(v)` is `v.toNat`. -/

namespace Sys2Proof.Machine

/-- `wrap32(z)`: the 32-bit pattern congruent to `z` modulo 2^32 (R10). -/
def wrap32 (z : Int) : Word := BitVec.ofInt 32 z

/-- `wrap16(z)`: the 16-bit pattern congruent to `z` modulo 2^16 (R10). -/
def wrap16 (z : Int) : BitVec 16 := BitVec.ofInt 16 z

/-- `sgn(z)` (R11). -/
def sgn (z : Int) : Int := if z < 0 then -1 else if z = 0 then 0 else 1

/-- `asr(z, n)`: `floor(z / 2^n)` (R11); for a positive divisor Lean's `/` on Int rounds to minus infinity. -/
def asr (z : Int) (n : Nat) : Int := z / 2 ^ n

/-- `tdiv(a, b)`: division truncated toward zero (R11). -/
def tdiv (a b : Int) : Int := Int.tdiv a b

/-- `sat16(z)`: clamp to −32768 .. 32767 (R11, R141; 90_conflicts.md C2). -/
def sat16 (z : Int) : Int := if z > 32767 then 32767 else if z < -32768 then -32768 else z

end Sys2Proof.Machine
end

