-- ==== Sys2Proof/Syntax.lean ====
section
/-! DEFINITION. The commands of APEDEC: one constructor for each of the 31 rows of spec/opcode_table.json
(spec/30_encoding.md R96), its operands in the order of the assembler syntax (R100). -/

namespace Sys2Proof

/-- One command. A register operand is `d0`..`d15`. The numbers of the 8-bit fields (a CSR address, a filter instance,
a channel, DEC's `param1`) and LIH's 16-bit field are plain numbers, LI's immediate is the signed number it loads
(R95); WellFormed bounds them to their fields. -/
inductive Instr
  /-- NOP (R210) -/
  | nop
  /-- LI rd, imm16 (R211) -/
  | li (rd : Reg) (imm : Int)
  /-- LIH rd, imm16 (R212) -/
  | lih (rd : Reg) (imm : Nat)
  /-- MOV rd, ra (R213) -/
  | mov (rd ra : Reg)
  /-- CSRR rd, csr (R214) -/
  | csrr (rd : Reg) (csr : Nat)
  /-- CSRW csr, ra (R215) -/
  | csrw (csr : Nat) (ra : Reg)
  /-- OPEN (R216) -/
  | openSession
  /-- CLOSE (R217) -/
  | closeSession
  /-- DEC rd, UINT, n (R112) -/
  | decUint (rd : Reg) (n : Nat)
  /-- DEC rd, RICE, s (R114) -/
  | decRice (rd : Reg) (slot : Nat)
  /-- DEC rd, XBITS, n (R113) -/
  | decXbits (rd : Reg) (n : Nat)
  /-- ALIGN (R122) -/
  | align
  /-- FILL (R123) -/
  | fill
  /-- FILLR ra, rb (R124) -/
  | fillr (ra rb : Reg)
  /-- SEEK ra, rb (R125) -/
  | seek (ra rb : Reg)
  /-- ZZ rd, ra (R126) -/
  | zz (rd ra : Reg)
  /-- NND rd, ra, f (R149) -/
  | nnd (rd ra : Reg) (f : Nat)
  /-- NNC rd, ra, f (R150) -/
  | nnc (rd ra : Reg) (f : Nat)
  /-- FOD rd, ra, f (R155) -/
  | fod (rd ra : Reg) (f : Nat)
  /-- FOC rd, ra, f (R156) -/
  | foc (rd ra : Reg) (f : Nat)
  /-- CASD rd, ra, ch (R159) -/
  | casd (rd ra : Reg) (ch : Nat)
  /-- CASC rd, ra, ch (R160) -/
  | casc (rd ra : Reg) (ch : Nat)
  /-- FLUSHF f (R161) -/
  | flushf (f : Nat)
  /-- FLUSHA (R162) -/
  | flusha
  /-- SAT16 rd, ra (R163) -/
  | sat16 (rd ra : Reg)
  /-- MS2LR rd, rc, ra, rb (R180) -/
  | ms2lr (rd rc ra rb : Reg)
  /-- MONO rd, ra (R181) -/
  | mono (rd ra : Reg)
  /-- EMIT ra, rb (R190) -/
  | emit (ra rb : Reg)
  /-- SIL (R192) -/
  | sil
  /-- CRCS (R193) -/
  | crcs
  /-- CRCE rd (R195) -/
  | crce (rd : Reg)
deriving DecidableEq, Repr

end Sys2Proof
end

