-- ==== Sys2Proof/WellFormed.lean ====
section
/-! DEFINITION. Which commands have an encoding: each number must fit its field (spec/30_encoding.md R91 to R93, R95).
A well-formed command may still be answered with an error when it runs: an 8-bit field above its legal operand range
is IllegalOperand (R232), not ill-formed. -/

namespace Sys2Proof

/-- The number fits an 8-bit field: `imm8` (R91) or `param1` (R93). -/
def fits8 (n : Nat) : Bool := decide (n < 256)

/-- The number fits the 16-bit field of LIH (R92). -/
def fitsU16 (n : Nat) : Bool := decide (n < 65536)

/-- The number is one LI can load: its 16-bit field is sign-extended (R95, R100). -/
def fitsS16 (z : Int) : Bool := decide (-32768 ≤ z ∧ z ≤ 32767)

/-- A command whose operands all fit their fields. -/
def Instr.wellFormed : Instr → Bool
  | .nop => true
  | .li _ imm => fitsS16 imm
  | .lih _ imm => fitsU16 imm
  | .mov _ _ => true
  | .csrr _ csr => fits8 csr
  | .csrw csr _ => fits8 csr
  | .openSession => true
  | .closeSession => true
  | .decUint _ n => fits8 n
  | .decRice _ slot => fits8 slot
  | .decXbits _ n => fits8 n
  | .align => true
  | .fill => true
  | .fillr _ _ => true
  | .seek _ _ => true
  | .zz _ _ => true
  | .nnd _ _ f => fits8 f
  | .nnc _ _ f => fits8 f
  | .fod _ _ f => fits8 f
  | .foc _ _ f => fits8 f
  | .casd _ _ ch => fits8 ch
  | .casc _ _ ch => fits8 ch
  | .flushf f => fits8 f
  | .flusha => true
  | .sat16 _ _ => true
  | .ms2lr _ _ _ _ => true
  | .mono _ _ => true
  | .emit _ _ => true
  | .sil => true
  | .crcs => true
  | .crce _ => true

end Sys2Proof
end

