-- ==== Sys2Proof/Decode.lean ====
section
/-! DEFINITION. The decoder, total on 32-bit command words and rejecting by name, and after it the encoder, both
written from the formats and the opcode map of spec/30_encoding.md (R90 to R96); and the opcode table's fixed bits
(R94) as data. -/

namespace Sys2Proof

/-- `v[lo + len − 1 : lo]` of R9: the bit slice of `len` bits whose lowest bit is `lo`, read as an unsigned number. -/
def field (w : Word) (lo len : Nat) : Nat := w.toNat / 2 ^ lo % 2 ^ len

/-- Bits [31:24], the opcode of every format (R90). -/
def opcodeField (w : Word) : Nat := field w 24 8

/-- The register named by the 4-bit field at `lo` (R95: register fields are used as they stand). -/
def regField (w : Word) (lo : Nat) : Reg := ⟨w.toNat / 2 ^ lo % 16, Nat.mod_lt _ (by decide)⟩

/-- Format R's and I's destination, bits [23:20]. -/
def rdField (w : Word) : Reg := regField w 20
/-- Format R's first source, bits [19:16]. -/
def raField (w : Word) : Reg := regField w 16
/-- Format R's second source, bits [15:12]. -/
def rbField (w : Word) : Reg := regField w 12
/-- Format R's second destination, bits [11:8]. -/
def rcField (w : Word) : Reg := regField w 8
/-- Bits [7:0]: `imm8` of format R, `param1` of format D, zero-extended (R95). -/
def imm8Field (w : Word) : Nat := field w 0 8
/-- Bits [15:0]: `imm16` of format I. -/
def imm16Field (w : Word) : Nat := field w 0 16

/-- `sext_16` (R11): the 16-bit pattern read as two's complement. -/
def sext16 (n : Nat) : Int := if n < 32768 then (n : Int) else (n : Int) - 65536

/-- Why a word is illegal (R98). -/
inductive Illegal
  /-- The opcode is not in the table of R96. -/
  | unassignedOpcode
  /-- A must-be-zero field is non-zero (R94). -/
  | nonzeroField
  /-- DEC with method 3, which is reserved (R93). -/
  | reservedMethod
deriving DecidableEq, Repr

/-- What a command word spells: a command, or nothing, with the reason. -/
inductive Decoded
  | command (i : Instr)
  | illegal (why : Illegal)
deriving DecidableEq, Repr

/-- The command, if the must-be-zero fields of its row are zero (R94). -/
def ifZero (fieldsAreZero : Bool) (i : Instr) : Decoded :=
  if fieldsAreZero then .command i else .illegal .nonzeroField

/-- The command a 32-bit word spells (R96), or the reason why it spells none (R98). NNC, FOC and CASC decode here on
every hardware; where HAS_COMPRESS = 0 their meanings answer IllegalCommand (log 11). -/
def decode (w : Word) : Decoded :=
  match opcodeField w with
  | 0x00 => ifZero (field w 0 24 == 0) .nop
  | 0x01 => ifZero (field w 16 4 == 0) (.li (rdField w) (sext16 (imm16Field w)))
  | 0x02 => ifZero (field w 16 4 == 0) (.lih (rdField w) (imm16Field w))
  | 0x03 => ifZero (field w 0 16 == 0) (.mov (rdField w) (raField w))
  | 0x04 => ifZero (field w 8 12 == 0) (.csrr (rdField w) (imm8Field w))
  | 0x05 => ifZero (field w 20 4 == 0 && field w 8 8 == 0) (.csrw (imm8Field w) (raField w))
  | 0x06 => ifZero (field w 0 24 == 0) .openSession
  | 0x07 => ifZero (field w 0 24 == 0) .closeSession
  | 0x10 =>
    match field w 18 2 with
    | 0 => ifZero (field w 8 10 == 0) (.decUint (rdField w) (imm8Field w))
    | 1 => ifZero (field w 8 10 == 0) (.decRice (rdField w) (imm8Field w))
    | 2 => ifZero (field w 8 10 == 0) (.decXbits (rdField w) (imm8Field w))
    | _ => .illegal .reservedMethod
  | 0x11 => ifZero (field w 0 24 == 0) .align
  | 0x12 => ifZero (field w 0 24 == 0) .fill
  | 0x13 => ifZero (field w 20 4 == 0 && field w 0 12 == 0) (.fillr (raField w) (rbField w))
  | 0x14 => ifZero (field w 20 4 == 0 && field w 0 12 == 0) (.seek (raField w) (rbField w))
  | 0x15 => ifZero (field w 0 16 == 0) (.zz (rdField w) (raField w))
  | 0x20 => ifZero (field w 8 8 == 0) (.nnd (rdField w) (raField w) (imm8Field w))
  | 0x21 => ifZero (field w 8 8 == 0) (.nnc (rdField w) (raField w) (imm8Field w))
  | 0x22 => ifZero (field w 8 8 == 0) (.fod (rdField w) (raField w) (imm8Field w))
  | 0x23 => ifZero (field w 8 8 == 0) (.foc (rdField w) (raField w) (imm8Field w))
  | 0x24 => ifZero (field w 8 8 == 0) (.casd (rdField w) (raField w) (imm8Field w))
  | 0x25 => ifZero (field w 8 8 == 0) (.casc (rdField w) (raField w) (imm8Field w))
  | 0x26 => ifZero (field w 8 16 == 0) (.flushf (imm8Field w))
  | 0x27 => ifZero (field w 0 24 == 0) .flusha
  | 0x28 => ifZero (field w 0 16 == 0) (.sat16 (rdField w) (raField w))
  | 0x30 => ifZero (field w 0 8 == 0) (.ms2lr (rdField w) (rcField w) (raField w) (rbField w))
  | 0x31 => ifZero (field w 0 16 == 0) (.mono (rdField w) (raField w))
  | 0x32 => ifZero (field w 20 4 == 0 && field w 0 12 == 0) (.emit (raField w) (rbField w))
  | 0x33 => ifZero (field w 0 24 == 0) .sil
  | 0x38 => ifZero (field w 0 24 == 0) .crcs
  | 0x39 => ifZero (field w 0 20 == 0) (.crce (rdField w))
  | _ => .illegal .unassignedOpcode

/-- Format R (R91): `op ‖ rd ‖ ra ‖ rb ‖ rc ‖ imm8`. -/
def encodeR (op : Nat) (rd ra rb rc : Reg) (imm8 : Nat) : Word :=
  BitVec.ofNat 32 (op * 2 ^ 24 + rd.val * 2 ^ 20 + ra.val * 2 ^ 16 + rb.val * 2 ^ 12 + rc.val * 2 ^ 8 + imm8 % 256)

/-- Format I (R92): `op ‖ rd ‖ 0000 ‖ imm16`. -/
def encodeI (op : Nat) (rd : Reg) (imm16 : Nat) : Word :=
  BitVec.ofNat 32 (op * 2 ^ 24 + rd.val * 2 ^ 20 + imm16 % 65536)

/-- Format D (R93): `0x10 ‖ rd ‖ method ‖ 00 ‖ 00000000 ‖ param1`. -/
def encodeD (rd : Reg) (method param1 : Nat) : Word :=
  BitVec.ofNat 32 (0x10 * 2 ^ 24 + rd.val * 2 ^ 20 + method * 2 ^ 18 + param1 % 256)

/-- The word of a well-formed command (R91 to R96). A number that does not fit its field is cut to it. -/
def encode : Instr → Word
  | .nop => encodeR 0x00 0 0 0 0 0
  | .li rd imm => encodeI 0x01 rd (imm % 65536).toNat
  | .lih rd imm => encodeI 0x02 rd imm
  | .mov rd ra => encodeR 0x03 rd ra 0 0 0
  | .csrr rd csr => encodeR 0x04 rd 0 0 0 csr
  | .csrw csr ra => encodeR 0x05 0 ra 0 0 csr
  | .openSession => encodeR 0x06 0 0 0 0 0
  | .closeSession => encodeR 0x07 0 0 0 0 0
  | .decUint rd n => encodeD rd 0 n
  | .decRice rd slot => encodeD rd 1 slot
  | .decXbits rd n => encodeD rd 2 n
  | .align => encodeR 0x11 0 0 0 0 0
  | .fill => encodeR 0x12 0 0 0 0 0
  | .fillr ra rb => encodeR 0x13 0 ra rb 0 0
  | .seek ra rb => encodeR 0x14 0 ra rb 0 0
  | .zz rd ra => encodeR 0x15 rd ra 0 0 0
  | .nnd rd ra f => encodeR 0x20 rd ra 0 0 f
  | .nnc rd ra f => encodeR 0x21 rd ra 0 0 f
  | .fod rd ra f => encodeR 0x22 rd ra 0 0 f
  | .foc rd ra f => encodeR 0x23 rd ra 0 0 f
  | .casd rd ra ch => encodeR 0x24 rd ra 0 0 ch
  | .casc rd ra ch => encodeR 0x25 rd ra 0 0 ch
  | .flushf f => encodeR 0x26 0 0 0 0 f
  | .flusha => encodeR 0x27 0 0 0 0 0
  | .sat16 rd ra => encodeR 0x28 rd ra 0 0 0
  | .ms2lr rd rc ra rb => encodeR 0x30 rd ra rb rc 0
  | .mono rd ra => encodeR 0x31 rd ra 0 0 0
  | .emit ra rb => encodeR 0x32 0 ra rb 0 0
  | .sil => encodeR 0x33 0 0 0 0 0
  | .crcs => encodeR 0x38 0 0 0 0 0
  | .crce rd => encodeR 0x39 rd 0 0 0 0

/-- The opcode and, for DEC, the method of a command (R93, R96). -/
def Instr.opcode : Instr → Nat
  | .nop => 0x00
  | .li _ _ => 0x01
  | .lih _ _ => 0x02
  | .mov _ _ => 0x03
  | .csrr _ _ => 0x04
  | .csrw _ _ => 0x05
  | .openSession => 0x06
  | .closeSession => 0x07
  | .decUint _ _ => 0x10
  | .decRice _ _ => 0x10
  | .decXbits _ _ => 0x10
  | .align => 0x11
  | .fill => 0x12
  | .fillr _ _ => 0x13
  | .seek _ _ => 0x14
  | .zz _ _ => 0x15
  | .nnd _ _ _ => 0x20
  | .nnc _ _ _ => 0x21
  | .fod _ _ _ => 0x22
  | .foc _ _ _ => 0x23
  | .casd _ _ _ => 0x24
  | .casc _ _ _ => 0x25
  | .flushf _ => 0x26
  | .flusha => 0x27
  | .sat16 _ _ => 0x28
  | .ms2lr _ _ _ _ => 0x30
  | .mono _ _ => 0x31
  | .emit _ _ => 0x32
  | .sil => 0x33
  | .crcs => 0x38
  | .crce _ => 0x39

/-- One row of spec/opcode_table.json (R94): a word `w` spells the row's command exactly when `w & mask = bits`. -/
structure OpcodeRow where
  bits : Word
  mask : Word
deriving DecidableEq, Repr

/-- The row of spec/opcode_table.json that a command belongs to. -/
def Instr.row : Instr → OpcodeRow
  | .nop => ⟨0x00000000#32, 0xFFFFFFFF#32⟩
  | .li _ _ => ⟨0x01000000#32, 0xFF0F0000#32⟩
  | .lih _ _ => ⟨0x02000000#32, 0xFF0F0000#32⟩
  | .mov _ _ => ⟨0x03000000#32, 0xFF00FFFF#32⟩
  | .csrr _ _ => ⟨0x04000000#32, 0xFF0FFF00#32⟩
  | .csrw _ _ => ⟨0x05000000#32, 0xFFF0FF00#32⟩
  | .openSession => ⟨0x06000000#32, 0xFFFFFFFF#32⟩
  | .closeSession => ⟨0x07000000#32, 0xFFFFFFFF#32⟩
  | .decUint _ _ => ⟨0x10000000#32, 0xFF0FFF00#32⟩
  | .decRice _ _ => ⟨0x10040000#32, 0xFF0FFF00#32⟩
  | .decXbits _ _ => ⟨0x10080000#32, 0xFF0FFF00#32⟩
  | .align => ⟨0x11000000#32, 0xFFFFFFFF#32⟩
  | .fill => ⟨0x12000000#32, 0xFFFFFFFF#32⟩
  | .fillr _ _ => ⟨0x13000000#32, 0xFFF00FFF#32⟩
  | .seek _ _ => ⟨0x14000000#32, 0xFFF00FFF#32⟩
  | .zz _ _ => ⟨0x15000000#32, 0xFF00FFFF#32⟩
  | .nnd _ _ _ => ⟨0x20000000#32, 0xFF00FF00#32⟩
  | .nnc _ _ _ => ⟨0x21000000#32, 0xFF00FF00#32⟩
  | .fod _ _ _ => ⟨0x22000000#32, 0xFF00FF00#32⟩
  | .foc _ _ _ => ⟨0x23000000#32, 0xFF00FF00#32⟩
  | .casd _ _ _ => ⟨0x24000000#32, 0xFF00FF00#32⟩
  | .casc _ _ _ => ⟨0x25000000#32, 0xFF00FF00#32⟩
  | .flushf _ => ⟨0x26000000#32, 0xFFFFFF00#32⟩
  | .flusha => ⟨0x27000000#32, 0xFFFFFFFF#32⟩
  | .sat16 _ _ => ⟨0x28000000#32, 0xFF00FFFF#32⟩
  | .ms2lr _ _ _ _ => ⟨0x30000000#32, 0xFF0000FF#32⟩
  | .mono _ _ => ⟨0x31000000#32, 0xFF00FFFF#32⟩
  | .emit _ _ => ⟨0x32000000#32, 0xFFF00FFF#32⟩
  | .sil => ⟨0x33000000#32, 0xFFFFFFFF#32⟩
  | .crcs => ⟨0x38000000#32, 0xFFFFFFFF#32⟩
  | .crce _ => ⟨0x39000000#32, 0xFF0FFFFF#32⟩

/-- The 31 rows of spec/opcode_table.json, in the table's order. -/
def opcodeTable : List OpcodeRow :=
  [Instr.nop.row, (Instr.li 0 0).row, (Instr.lih 0 0).row, (Instr.mov 0 0).row, (Instr.csrr 0 0).row,
    (Instr.csrw 0 0).row, Instr.openSession.row, Instr.closeSession.row] ++
  [(Instr.decUint 0 0).row, (Instr.decRice 0 0).row, (Instr.decXbits 0 0).row, Instr.align.row, Instr.fill.row,
    (Instr.fillr 0 0).row, (Instr.seek 0 0).row, (Instr.zz 0 0).row] ++
  [(Instr.nnd 0 0 0).row, (Instr.nnc 0 0 0).row, (Instr.fod 0 0 0).row, (Instr.foc 0 0 0).row,
    (Instr.casd 0 0 0).row, (Instr.casc 0 0 0).row, (Instr.flushf 0).row, Instr.flusha.row, (Instr.sat16 0 0).row] ++
  [(Instr.ms2lr 0 0 0 0).row, (Instr.mono 0 0).row, (Instr.emit 0 0).row, Instr.sil.row, Instr.crcs.row,
    (Instr.crce 0).row]

/-- Bits 1 of `a.mask &&& b.mask` where the two rows' fixed values differ: no word matches both rows (R94). -/
abbrev OpcodeRow.disjoint (a b : OpcodeRow) : Prop := (a.bits ^^^ b.bits) &&& a.mask &&& b.mask ≠ 0

/-- The command the decoder reads from the word whose bits are `w`, numbered as spec/opcode_table.json numbers them.
Every row has 32 bits; bits of `w` above `nbits` are taken as 0. -/
def decodeTableWord (nbits w : Nat) : Option Instr :=
  match decode (BitVec.ofNat 32 (w % 2 ^ nbits)) with
  | .command i => some i
  | .illegal _ => none

end Sys2Proof
end

