-- ==== Sys2Proof/Config.lean ====
section
/-! DEFINITION. What is fixed for one instance of the hardware: the parameters that spec/00_scope.md R7 marks OPEN,
and the values the spec leaves to the environment. Nothing here is changed by a step. -/

namespace Sys2Proof

/-- ADAPT_DIR (R7, 90_conflicts.md C3): which value's sign steers the weight adaptation. -/
inductive AdaptDir
  | sample
  | residual
deriving DecidableEq, Repr

/-- Which RICE_ADAPT the hardware has (R7): the default of R121, or some other total function into `k' ≤ 31`. -/
inductive RiceAdaptChoice
  | standard
  | other
deriving DecidableEq, Repr

/-- Which BUCKET the hardware has (R7): the default of R146, or some other total function into 0..32767. -/
inductive BucketChoice
  | standard
  | other
deriving DecidableEq, Repr

/-- The OPEN parameters of R7. XLEN = 32, NREG = 16, NRS = 2, NCH = 2, NST = 4 and NF = 8 have one legal value and
are built into the types. -/
structure Params where
  /-- STREAM_WORD_BYTES, W: bytes per bit-array word (R62). -/
  streamWordBytes : Nat
  /-- BUF_BYTES: capacity of the cursor window (R123). -/
  bufBytes : Nat
  /-- RICE_ADAPT (R121). -/
  riceAdapt : RiceAdaptChoice
  /-- RICE_K_RESET (R44). -/
  riceKReset : BitVec 5
  /-- RICE_KSUM_RESET (R44). -/
  riceKsumReset : Word
  /-- MAXORDER: largest predictor order (R33). -/
  maxOrder : Nat
  /-- ADAPT_DIR (R149, R150). -/
  adaptDir : AdaptDir
  /-- BUCKET (R146). -/
  bucket : BucketChoice
  /-- HAS_COMPRESS: whether NNC, FOC and CASC exist (R98). -/
  hasCompress : Bool
  /-- VER_MIN (R30). -/
  verMin : Nat
  /-- VER_MAX (R30). -/
  verMax : Nat
  /-- PCM_BIG_ENDIAN (R67). -/
  pcmBigEndian : Bool
  /-- CRC_POLY (R194). -/
  crcPoly : Word
  /-- CRC_INIT (R45, R193). -/
  crcInit : Word
  /-- CRC_XOROUT (R194). -/
  crcXorout : Word
  /-- CRC_FINAL_SHIFT, 0..31 (R194). -/
  crcFinalShift : Fin 32
deriving DecidableEq, Repr

/-- The defaults of R7, "the value this spec's test vectors use". -/
def Params.default : Params where
  streamWordBytes := 1
  bufBytes := 16384
  riceAdapt := .standard
  riceKReset := 10
  riceKsumReset := 16384
  maxOrder := 256
  adaptDir := .sample
  bucket := .standard
  hasCompress := true
  verMin := 1
  verMax := 65535
  pcmBigEndian := false
  crcPoly := 0xEDB88320#32
  crcInit := 0xFFFFFFFF#32
  crcXorout := 0xFFFFFFFF#32
  crcFinalShift := 0

/-- The legal values of R7. The last bound, DEDUCED, is not in R7: `bitsheld = 8 · len(win)` is a 32-bit number
(R40), so a full window must fit it (log 13). -/
abbrev Params.Legal (p : Params) : Prop :=
  (p.streamWordBytes = 1 ∨ p.streamWordBytes = 2 ∨ p.streamWordBytes = 4) ∧
  p.bufBytes % p.streamWordBytes = 0 ∧ p.streamWordBytes + 4 ≤ p.bufBytes ∧
  p.maxOrder % 16 = 0 ∧ 16 ≤ p.maxOrder ∧
  1 ≤ p.verMin ∧ p.verMin ≤ p.verMax ∧ p.verMax ≤ 65535 ∧
  8 * p.bufBytes < 2 ^ 32

/-- What the byte source does with one `SrcRead` (R61): deliver, fail, or never answer (93_implementation_defined.md
U11, outside the fairness premise of R283). -/
inductive Answer
  | ok
  | fail
  | never
deriving DecidableEq, Repr, Inhabited

/-- FREE VALUE. The RICE_ADAPT of a hardware that does not have the default of R121: any total function into
`k' ≤ 31` (log 2). -/
opaque Config.otherRiceAdapt : BitVec 5 → Word → Word → BitVec 5 × Word

/-- FREE VALUE. The BUCKET of a hardware that does not have the default of R146: any total function into 0..32767;
`BUCKET(0, avg) = 0` is added where it is used (log 2). -/
opaque Config.otherBucket : Nat → Nat → BitVec 15

/-- FREE VALUE. What the byte source answers to its n-th `SrcRead` when State holds no scheduled answer: the
environment chooses (93_implementation_defined.md U10, log 5). -/
opaque Config.freeAnswer : Nat → Answer

end Sys2Proof
end

