-- ==== Sys2Proof/Machine/State.lean ====
section
/-! DEFINITION. The state of APEDEC (spec/10_state.md), the inputs and outputs a step reads and appends to
(spec/20_memory.md, spec/70_reset_and_hazards.md R284), and the state after reset (R47, R271). Plain data. -/

namespace Sys2Proof.Machine

/-- How a step can stop for good. Every error of R232 is a response, not a stop. -/
inductive Fault
  /-- The byte source never answers a `SrcRead` of FILL, FILLR or SEEK: the command has no response and the run is not
  over (93_implementation_defined.md U11: stuck; outside the fairness premise of R283). Raised by FILL, FILLR and SEEK.
  Safe: nothing is claimed of a command that never responds (log 6). -/
  | sourceNeverAnswers
deriving DecidableEq, Repr

/-- Why an instruction has no meaning. No meaning of this model refuses. -/
inductive Refusal
  /-- An instruction of the opcode table that has no meaning yet; raised by exec's arm alone. Safe. -/
  | notModelled (mnemonic : String)
deriving DecidableEq, Repr

/-- What comes to the block from its host (R284). -/
inductive HostEvent
  /-- The host sends one command word (R97, R284). -/
  | command (w : Word)
  /-- Reset between two commands (R270). -/
  | reset
  /-- Reset while the command `w` executes; of the bytes the command appends to the output stream, the first
  `appended` are already there (R270, 93_implementation_defined.md U13). -/
  | resetDuring (w : Word) (appended : Nat)
deriving DecidableEq, Repr

/-- The response of one command (R97). -/
structure Response where
  status : Byte
  value : Word
deriving DecidableEq, Repr

/-- The bytes of the byte source (R60): address and byte, see `Memory.wf` in Machine/Ops.lean for the canonical form. -/
abbrev Memory := List Host.Cell

/-- One filter instance (R33, R41, R43). Lists: `weights` is `w[0], w[1], ...` ; `hist` is `X[1], X[2], ...` ;
`delta` is `D[1], D[2], ...`, so the newest element is the head of `hist` and of `delta`. -/
structure Filter where
  /-- FTYPE: 0 disabled, 1 order-N predictor, 2 first-order stage, 3 reserved (R25). -/
  ftype : BitVec 2
  /-- FORDER, the order N of a predictor (R25). -/
  forder : BitVec 16
  /-- FSHIFT (R25). -/
  fshift : BitVec 5
  /-- FMUL, read as signed (R25, R155). -/
  fmul : Word
  /-- `w[0 .. N−1]` (R41). -/
  weights : List (BitVec 16)
  /-- `X[1 .. N]` (R41). -/
  hist : List (BitVec 16)
  /-- `D[1 .. N]` (R41). -/
  delta : List (BitVec 16)
  /-- The running average, FAVG (R41). -/
  avg : Word
  /-- `last`, FLAST, read as signed (R43). -/
  last : Word
deriving DecidableEq, Repr

/-- A filter instance after reset (R47). -/
def Filter.reset : Filter where
  ftype := 0
  forder := 0
  fshift := 0
  fmul := 0
  weights := []
  hist := []
  delta := []
  avg := 0
  last := 0

/-- Everything: the block's own state of 10_state.md, and around it the hardware's parameters, the host's and the byte
source's coming moves, and the two streams the block appends to. -/
structure State where
  /-- The parameters of this hardware (R7); no step changes them (log 1). -/
  cfg : Params
  /-- The host's coming moves, the next one first (R21, R284; log 3). -/
  inbox : List HostEvent
  /-- The responses returned so far, the first one first (R97, R283). -/
  responses : List Response
  /-- The output stream OUT, the first byte first (R66). -/
  out : List Byte
  /-- The bytes of the byte source (R60; log 4). -/
  src : Memory
  /-- What the byte source answers to `size()` (R60, R216). -/
  srcLen : Nat
  /-- The byte source's answers to the coming `SrcRead`s, the next one first (R61; log 5). -/
  answers : List Answer
  /-- The number of `SrcRead`s done, the model's own counter (log 5). -/
  reads : Nat
  /-- The data registers `d0`..`d15` (R20). -/
  d : Vector Word 16
  /-- SEQ, the number of command words accepted since reset (R21). -/
  seq : Word
  /-- The flag OPEN (R22, R23). -/
  isOpen : Bool
  /-- The flag BVALID (R22). -/
  bvalid : Bool
  /-- The flag FERR (R22, R196). -/
  ferr : Bool
  /-- ERRLOG's bits [12:1], bit `code − 1` here for error `code` (R25, R26). -/
  errlog : BitVec 12
  /-- LASTERR (R26). -/
  lasterr : Byte
  /-- LASTCMD (R26). -/
  lastcmd : Word
  /-- LASTSEQ (R26). -/
  lastseq : Word
  /-- VERSION (R30). -/
  version : BitVec 16
  /-- CHANNELS (R30). -/
  channels : BitVec 8
  /-- BITSPS (R30). -/
  bitsps : BitVec 8
  /-- LAGSEL (R32). -/
  lagsel : BitVec 1
  /-- MSROUND (R32). -/
  msround : BitVec 1
  /-- The window `win` (R40). -/
  win : List Byte
  /-- `bitpos` (R40). -/
  bitpos : Word
  /-- `srcpos` (R40). -/
  srcpos : Word
  /-- `furthest` (R40, R128). -/
  furthest : Word
  /-- `srcsize` (R40). -/
  srcsize : Word
  /-- `rk[0], rk[1]` (R44). -/
  rk : Vector (BitVec 5) 2
  /-- `rksum[0], rksum[1]` (R44). -/
  rksum : Vector Word 2
  /-- `crcacc` (R45). -/
  crcacc : Word
  /-- CRCSTORED (R45). -/
  crcstored : Word
  /-- SILCNT (R45). -/
  silcnt : Word
  /-- The eight filter instances, `f = 4·channel + stage` (R33). -/
  filters : Vector Filter 8
deriving DecidableEq, Repr

/-- Right after reset, on a hardware with parameters `p`: the values of R47; no host move, no answer and no source byte
placed, both streams empty (R271; logs 1, 3, 4, 5, 9). -/
def State.resetOf (p : Params) : State where
  cfg := p
  inbox := []
  responses := []
  out := []
  src := []
  srcLen := 0
  answers := []
  reads := 0
  d := Vector.replicate 16 0
  seq := 0
  isOpen := false
  bvalid := false
  ferr := false
  errlog := 0
  lasterr := 0
  lastcmd := 0
  lastseq := 0
  version := 0
  channels := 0
  bitsps := 0
  lagsel := 0
  msround := 0
  win := []
  bitpos := 0
  srcpos := 0
  furthest := 0
  srcsize := 0
  rk := Vector.replicate 2 p.riceKReset
  rksum := Vector.replicate 2 p.riceKsumReset
  crcacc := p.crcInit
  crcstored := 0
  silcnt := 0
  filters := Vector.replicate 8 Filter.reset

/-- Right after reset, on the hardware with the default parameters of R7 (log 1). -/
def State.reset : State := State.resetOf Params.default

/-- What a command does to the state. -/
abbrev Result := Host.Outcome State Fault Refusal

end Sys2Proof.Machine
end

