-- ==== Sys2Proof/Machine/Ops.lean ====
section
/-! DEFINITION. The named operations over the byte source, the registers, the output stream and the response port, and
taking an error as one shared operation (spec/20_memory.md R60 to R66; spec/30_encoding.md R97; spec/60_exceptions.md
R230 to R242). There is no return from an error (R243). -/

namespace Sys2Proof.Machine

/-! ### The byte source -/

/-- The canonical form of a memory: addresses strictly rising, and no entry equal to the 0 an unlisted address reads
as (log 4). -/
abbrev Memory.wf (m : Memory) : Prop :=
  m.Pairwise (fun a b => a.1 < b.1) ∧ ∀ c ∈ m, c.2 ≠ 0#8

/-- `SRC[a]`. DESIGN CHOICE: an unlisted address reads as 0; every array of bytes has exactly one such list (log 4). -/
def Memory.read : Memory → Nat → Byte
  | [], _ => 0#8
  | (k, v) :: rest, a => if a = k then v else Memory.read rest a

/-- The bytes `SRC[pos], ..., SRC[pos + n − 1]`. -/
def Memory.readBytes (m : Memory) (pos : Nat) : Nat → List Byte
  | 0 => []
  | n + 1 => m.read pos :: m.readBytes (pos + 1) n

/-- Place the byte `b` at `a`, keeping the canonical form. No command writes the source (R60); this is how whoever
supplies a source builds one. -/
def Memory.write : Memory → Nat → Byte → Memory
  | [], a, b => if b = 0#8 then [] else [(a, b)]
  | (k, v) :: rest, a, b =>
    if a < k then (if b = 0#8 then (k, v) :: rest else (a, b) :: (k, v) :: rest)
    else if a = k then (if b = 0#8 then rest else (a, b) :: rest)
    else (k, v) :: Memory.write rest a b

/-- The memory that holds the bytes `bs` from address `base` on and 0 elsewhere. -/
def Memory.ofBytes (base : Nat) : List Byte → Memory
  | [] => []
  | b :: bs => if b = 0#8 then Memory.ofBytes (base + 1) bs else (base, b) :: Memory.ofBytes (base + 1) bs

/-- The state with the byte source `bs` connected (a launch premise of a run, R283; no command does this). -/
def State.withSource (s : State) (bs : List Byte) : State :=
  { s with src := Memory.ofBytes 0 bs, srcLen := bs.length }

/-- What the byte source does with the coming `SrcRead`: the scheduled answer, and a free one when none is scheduled
(R61, 93_implementation_defined.md U10; log 5). -/
def State.nextAnswer (s : State) : Answer :=
  match s.answers with
  | a :: _ => a
  | [] => Config.freeAnswer s.reads

/-- The outcomes of `SrcRead` (R61), and none at all (log 6). -/
inductive ReadOutcome
  | ok (bytes : List Byte)
  | fail
  | never
deriving DecidableEq, Repr

/-- `SrcRead(pos, n)` (R61): seek and read. A source too short for all n bytes fails the read ("fails if bytesRead !=
n"), which no run reaches, since n is capped by `srcsize` (DEDUCED, log 7). -/
def State.srcRead (s : State) (pos n : Nat) : ReadOutcome :=
  match s.nextAnswer with
  | .ok => if pos + n ≤ s.srcLen then .ok (s.src.readBytes pos n) else .fail
  | .fail => .fail
  | .never => .never

/-- One `SrcRead` has been done: its answer is used up (log 5). -/
def State.readDone (s : State) : State := { s with answers := s.answers.tail, reads := s.reads + 1 }

/-! ### Registers and the output stream -/

/-- `d[i]` (R12, R20). -/
def State.reg (s : State) (i : Reg) : Word := s.d.get i

/-- `d[i] <- v` (R12, R20). -/
def State.setReg (s : State) (i : Reg) (v : Word) : State := { s with d := s.d.set i.val v i.isLt }

/-- `OutAppend` of each byte in order (R12, R66). -/
def State.append (s : State) (bs : List Byte) : State := { s with out := s.out ++ bs }

/-! ### Responses and errors -/

/-- `respond(status, value)`: the response is returned and SEQ counts the command (R12, R21, R97). -/
def State.respond (s : State) (status : Byte) (value : Word) : State :=
  { s with responses := s.responses ++ [⟨status, value⟩], seq := s.seq + 1 }

/-- The command completed with OK and value `v` (R97). -/
def State.complete (s : State) (v : Word) : State := s.respond 0x00#8 v

/-- The command completed with OK after writing `v` to its destination `rd` (R97). -/
def State.completeReg (s : State) (rd : Reg) (v : Word) : State := (s.setReg rd v).complete v

/-- The errors of R232. -/
inductive Err
  | illegalCommand
  | illegalOperand
  | notOpen
  | notClosed
  | cursorInvalid
  | bitUnderrun
  | riceOverflow
  | ioError
  | initializationError
  | configError
  | filterType
  | frameIntegrityError
deriving DecidableEq, Repr

/-- The status code of an error (R232). -/
def Err.code : Err → Byte
  | .illegalCommand => 0x01#8
  | .illegalOperand => 0x02#8
  | .notOpen => 0x03#8
  | .notClosed => 0x04#8
  | .cursorInvalid => 0x05#8
  | .bitUnderrun => 0x06#8
  | .riceOverflow => 0x07#8
  | .ioError => 0x08#8
  | .initializationError => 0x09#8
  | .configError => 0x0A#8
  | .filterType => 0x0B#8
  | .frameIntegrityError => 0x0C#8

/-- Record the error of the command word `w` (R26, R236): SEQ is recorded before its increment. -/
def State.record (s : State) (e : Err) (w : Word) : State :=
  { s with
    errlog := s.errlog ||| (1#12 <<< (e.code.toNat - 1))
    lasterr := e.code
    lastcmd := w
    lastseq := s.seq }

/-- TAKING AN ERROR, the one shared operation (R12, R236, R242): record it, respond with its code and value 0. What the
state was before is kept but for the record and SEQ; a rule that gives the error a further effect applies it to `s`
first. -/
def State.raise (s : State) (e : Err) (w : Word) : State := (s.record e w).respond e.code 0#32

/-- The first failing check of a list of (fails, error), in the list's order (R240). -/
def firstError : List (Bool × Err) → Option Err
  | [] => none
  | (fails, e) :: rest => if fails then some e else firstError rest

/-- Check in order, raise the first failure of the command word `w`, go on when there is none (R110, R140, R240). -/
def checked (s : State) (w : Word) (checks : List (Bool × Err)) (go : Result) : Result :=
  match firstError checks with
  | some e => .next (s.raise e w)
  | none => go

/-! ### Reset -/

/-- The block's own state goes to its reset values (R270, R47); the hardware's parameters, the host's coming moves, the
byte source and the two streams are outside the block and stay (R271). -/
def State.hwReset (s : State) : State :=
  { State.resetOf s.cfg with
    inbox := s.inbox
    responses := s.responses
    out := s.out
    src := s.src
    srcLen := s.srcLen
    answers := s.answers
    reads := s.reads }

/-- Reset inside a command that would have left `done`: no response, no effect, but any beginning of the bytes it
appends may be in the output stream (R270, 93_implementation_defined.md U13; log 10). -/
def State.abandon (s done : State) (appended : Nat) : State :=
  (s.append ((done.out.drop s.out.length).take appended)).hwReset

end Sys2Proof.Machine
end

