-- ==== Sys2Proof/Machine/Flags.lean ====
section
/-! DEFINITION. The three status flags and the words software reads them in (spec/10_state.md R22 to R26). No command
computes an arithmetic flag (R22). -/

namespace Sys2Proof.Machine

/-- A flag as a number. -/
def bit (b : Bool) : Nat := if b then 1 else 0

/-- STATUS: bit 0 OPEN, bit 1 BVALID, bit 2 FERR (R22, R25). -/
def State.statusWord (s : State) : Word := BitVec.ofNat 32 (bit s.isOpen + 2 * bit s.bvalid + 4 * bit s.ferr)

/-- ERRLOG: bit c is set when an error with code c has been returned (R25, R26). -/
def State.errlogWord (s : State) : Word := (s.errlog.setWidth 32) <<< 1

/-- Write 1 to clear: every bit of ERRLOG whose written bit is 1 is cleared (R24, R215). -/
def State.clearErrlog (s : State) (v : Word) : State :=
  { s with errlog := s.errlog &&& ~~~((v >>> 1).setWidth 12) }

/-- The session states of R251; Seeking is never the state between two commands (R23). -/
inductive Session
  | closed
  | initialized
  | decoding
deriving DecidableEq, Repr

/-- The session state (R251). -/
def State.session (s : State) : Session :=
  if s.isOpen then (if s.bvalid then .decoding else .initialized) else .closed

end Sys2Proof.Machine
end

