-- ==== Sys2Proof/Machine/Operands.lean ====
section
/-! DEFINITION. The operand forms: CSR addresses with their classes, reads and writes (spec/10_state.md R24, R25, R31),
filter instances (R33), channels (spec/41_filter.md R159) and Rice slots (R44). -/

namespace Sys2Proof.Machine

/-! ### Control and status registers -/

/-- The registers of the CSR map (R25). -/
inductive Csr
  | status
  | errlog
  | lasterr
  | lastcmd
  | lastseq
  | seq
  | version
  | channels
  | bitsps
  | bytesps
  | blockalign
  | lagsel
  | msround
  | bitpos
  | bitsheld
  | srcpos
  | furthest
  | srcsize
  | rk (s : Fin 2)
  | rksum (s : Fin 2)
  | crcacc
  | crcstored
  | silcnt
  | ftype (f : Fin 8)
  | forder (f : Fin 8)
  | fshift (f : Fin 8)
  | fmul (f : Fin 8)
  | favg (f : Fin 8)
  | flast (f : Fin 8)
deriving DecidableEq, Repr

/-- The filter instance whose CSR group holds the address (R25: 0x40 + 8f .. 0x47 + 8f). -/
def csrInstance (a : Nat) : Fin 8 := ⟨(a - 0x40) / 8 % 8, Nat.mod_lt _ (by decide)⟩

/-- The register at a CSR address, none where no register exists (R25). -/
def csrAt (a : Nat) : Option Csr :=
  if 0x40 ≤ a ∧ a < 0x80 then
    match (a - 0x40) % 8 with
    | 0 => some (.ftype (csrInstance a))
    | 1 => some (.forder (csrInstance a))
    | 2 => some (.fshift (csrInstance a))
    | 3 => some (.fmul (csrInstance a))
    | 4 => some (.favg (csrInstance a))
    | 5 => some (.flast (csrInstance a))
    | _ => none
  else
    match a with
    | 0x00 => some .status
    | 0x01 => some .errlog
    | 0x02 => some .lasterr
    | 0x03 => some .lastcmd
    | 0x04 => some .lastseq
    | 0x05 => some .seq
    | 0x08 => some .version
    | 0x09 => some .channels
    | 0x0A => some .bitsps
    | 0x0B => some .bytesps
    | 0x0C => some .blockalign
    | 0x0D => some .lagsel
    | 0x0E => some .msround
    | 0x10 => some .bitpos
    | 0x11 => some .bitsheld
    | 0x12 => some .srcpos
    | 0x13 => some .furthest
    | 0x14 => some .srcsize
    | 0x18 => some (.rk 0)
    | 0x19 => some (.rk 1)
    | 0x1C => some (.rksum 0)
    | 0x1D => some (.rksum 1)
    | 0x20 => some .crcacc
    | 0x21 => some .crcstored
    | 0x22 => some .silcnt
    | _ => none

/-- The access classes of R24. -/
inductive CsrClass
  | ro
  | rw
  | cfg
  | w1c
deriving DecidableEq, Repr

/-- The class of each register (R25). -/
def Csr.cls : Csr → CsrClass
  | .status => .ro
  | .errlog => .w1c
  | .lasterr => .ro
  | .lastcmd => .ro
  | .lastseq => .ro
  | .seq => .ro
  | .version => .cfg
  | .channels => .cfg
  | .bitsps => .cfg
  | .bytesps => .ro
  | .blockalign => .ro
  | .lagsel => .cfg
  | .msround => .cfg
  | .bitpos => .ro
  | .bitsheld => .ro
  | .srcpos => .ro
  | .furthest => .ro
  | .srcsize => .ro
  | .rk _ => .rw
  | .rksum _ => .rw
  | .crcacc => .ro
  | .crcstored => .rw
  | .silcnt => .rw
  | .ftype _ => .cfg
  | .forder _ => .cfg
  | .fshift _ => .cfg
  | .fmul _ => .cfg
  | .favg _ => .ro
  | .flast _ => .ro

/-- BYTESPS, `floor(BITSPS / 8)`, computed at each read (R31). -/
def State.bytesPerSample (s : State) : Nat := s.bitsps.toNat / 8

/-- BLOCKALIGN, `BYTESPS · CHANNELS`, computed at each read (R31). -/
def State.blockAlign (s : State) : Nat := s.bytesPerSample * s.channels.toNat

/-- `bitsheld`, always `8 · len(win)`, computed from the window (R40; log 13). -/
def State.bitsHeld (s : State) : Nat := 8 * s.win.length

/-- Filter instance `f`. -/
def State.filter (s : State) (f : Fin 8) : Filter := s.filters.get f

/-- Replace filter instance `f`. -/
def State.setFilter (s : State) (f : Fin 8) (x : Filter) : State := { s with filters := s.filters.set f.val x f.isLt }

/-- The value of a CSR: fields in their bit positions, all other bits 0 (R24, R25, R214). -/
def State.csrValue (s : State) : Csr → Word
  | .status => s.statusWord
  | .errlog => s.errlogWord
  | .lasterr => s.lasterr.setWidth 32
  | .lastcmd => s.lastcmd
  | .lastseq => s.lastseq
  | .seq => s.seq
  | .version => s.version.setWidth 32
  | .channels => s.channels.setWidth 32
  | .bitsps => s.bitsps.setWidth 32
  | .bytesps => BitVec.ofNat 32 s.bytesPerSample
  | .blockalign => BitVec.ofNat 32 s.blockAlign
  | .lagsel => s.lagsel.setWidth 32
  | .msround => s.msround.setWidth 32
  | .bitpos => s.bitpos
  | .bitsheld => BitVec.ofNat 32 s.bitsHeld
  | .srcpos => s.srcpos
  | .furthest => s.furthest
  | .srcsize => s.srcsize
  | .rk i => (s.rk.get i).setWidth 32
  | .rksum i => s.rksum.get i
  | .crcacc => s.crcacc
  | .crcstored => s.crcstored
  | .silcnt => s.silcnt
  | .ftype f => (s.filter f).ftype.setWidth 32
  | .forder f => (s.filter f).forder.setWidth 32
  | .fshift f => (s.filter f).fshift.setWidth 32
  | .fmul f => (s.filter f).fmul
  | .favg f => (s.filter f).avg
  | .flast f => (s.filter f).last

/-- Write a CSR: ERRLOG clears the written ones, every other writable register keeps the low bits that fit its field
(R24, R215). A read-only register keeps its value; R215's checks never let a command write one. -/
def State.csrSet (s : State) (c : Csr) (v : Word) : State :=
  match c with
  | .errlog => s.clearErrlog v
  | .version => { s with version := v.setWidth 16 }
  | .channels => { s with channels := v.setWidth 8 }
  | .bitsps => { s with bitsps := v.setWidth 8 }
  | .lagsel => { s with lagsel := v.setWidth 1 }
  | .msround => { s with msround := v.setWidth 1 }
  | .rk i => { s with rk := s.rk.set i.val (v.setWidth 5) i.isLt }
  | .rksum i => { s with rksum := s.rksum.set i.val v i.isLt }
  | .crcstored => { s with crcstored := v }
  | .silcnt => { s with silcnt := v }
  | .ftype f => s.setFilter f { s.filter f with ftype := v.setWidth 2 }
  | .forder f => s.setFilter f { s.filter f with forder := v.setWidth 16 }
  | .fshift f => s.setFilter f { s.filter f with fshift := v.setWidth 5 }
  | .fmul f => s.setFilter f { s.filter f with fmul := v }
  | .status | .lasterr | .lastcmd | .lastseq | .seq | .bytesps | .blockalign | .bitpos | .bitsheld => s
  | .srcpos | .furthest | .srcsize | .crcacc | .favg _ | .flast _ => s

/-- No CSRW may write it: it does not exist or its class is RO (R215). -/
def csrNotWritable : Option Csr → Bool
  | none => true
  | some c => c.cls == .ro

/-- It is a configuration register (R24). -/
def csrIsCfg : Option Csr → Bool
  | none => false
  | some c => c.cls == .cfg

/-! ### Filter instances, channels, Rice slots -/

/-- The instance an `imm8` below NF names (R140). -/
def instanceOf (n : Nat) : Fin 8 := ⟨n % 8, Nat.mod_lt _ (by decide)⟩

/-- The slot a `param1` below NRS names (R114). -/
def slotOf (n : Nat) : Fin 2 := ⟨n % 2, Nat.mod_lt _ (by decide)⟩

/-- Instance `f = 4·c + t` of channel c and stage slot t (R33). -/
def stageInstance (c t : Nat) : Fin 8 := instanceOf (4 * c + t)

/-- The four instances of a channel in ascending slot order (R159). -/
def channelStages (c : Nat) : List (Fin 8) :=
  [stageInstance c 0, stageInstance c 1, stageInstance c 2, stageInstance c 3]

/-- The channel does not exist: it is not below CHANNELS (R140), or the block holds no filter state for it
(NCH = 2, R7; DEDUCED, only where CHANNELS is above 2, which OPEN never admits, log 14). -/
def State.badChannel (s : State) (ch : Nat) : Bool := decide (s.channels.toNat ≤ ch ∨ 2 ≤ ch)

end Sys2Proof.Machine
end

