-- ==== Sys2Proof/Machine/Filter.lean ====
section
/-! DEFINITION. The adaptive prediction filter: NND, NNC, FOD, FOC, CASD, CASC, FLUSHF, FLUSHA, SAT16
(spec/41_filter.md). A step of an instance is a function on the instance alone (R164 P2). -/

namespace Sys2Proof.Machine

/-! ### Flush -/

/-- The number of taps an instance holds state for: N of a predictor (R41), none of any other type. -/
def Filter.taps (x : Filter) : Nat := if x.ftype = 1 then x.forder.toNat else 0

/-- LAPE's Flush on one instance (R161): weights, history, deltas, `avg` and `last` are 0, configuration is kept. -/
def Filter.flush (x : Filter) : Filter :=
  { x with
    weights := List.replicate x.taps 0
    hist := List.replicate x.taps 0
    delta := List.replicate x.taps 0
    avg := 0
    last := 0 }

/-- Flush every instance (R162). -/
def State.flushAll (s : State) : State := { s with filters := Vector.ofFn fun f => (s.filter f).flush }

/-! ### The order-N predictor -/

/-- `dot = wrap32(Σ w[j] · X[N − j])`: `w[0]` meets the oldest history element (R142). -/
def Filter.dot (x : Filter) : Word :=
  wrap32 ((List.zipWith (fun w h => w.toInt * h.toInt) x.weights x.hist.reverse).sum)

/-- `pred` (R142). -/
def Filter.pred (x : Filter) : Int :=
  asr (wrap32 (x.dot.toInt + 2 ^ (x.fshift.toNat - 1))).toInt x.fshift.toNat

/-- The weights after adaptation in direction `dir` (R143): `w[j]` with the delta of the history it multiplied. -/
def Filter.adapt (x : Filter) (dir : Int) : List (BitVec 16) :=
  List.zipWith (fun w d => wrap16 (w.toInt + dir * d.toInt)) x.weights x.delta.reverse

/-- Move `v` into a window of N elements: the newest first, the oldest forgotten (R144, R145). -/
def shiftIn (N : Nat) (v : BitVec 16) (xs : List (BitVec 16)) : List (BitVec 16) := (v :: xs).take N

/-- The default BUCKET on `a = abs(sample)` and `avg` (R146). -/
def bucketStandard (a avg : Nat) : Nat :=
  if 3 * avg < a then 32 else if 4 * avg / 3 < a then 16 else if 0 < a then 8 else 0

/-- BUCKET of this hardware (R7, R146); every BUCKET gives 0 for a zero sample. -/
def bucketOf (c : BucketChoice) (a avg : Nat) : Nat :=
  match c with
  | .standard => bucketStandard a avg
  | .other => if a = 0 then 0 else (Config.otherBucket a avg).toNat

/-- The new delta element `d0 = sgn(sample) · BUCKET(abs(sample), avg)`, with the old `avg` (R145). -/
def newDelta (c : BucketChoice) (sample : Int) (avg : Word) : BitVec 16 :=
  wrap16 (sgn sample * (bucketOf c sample.natAbs avg.toNat : Int))

/-- `avg + tdiv(abs(sample) − avg, 16)` (R147). -/
def nextAvg (sample : Int) (avg : Word) : Word :=
  wrap32 ((avg.toNat : Int) + tdiv ((sample.natAbs : Int) - (avg.toNat : Int)) 16)

/-- The lag set: {1, 2, 8}, or {1, 2, 4, 8} when LAGSEL = 1 (R32, R148; 90_conflicts.md C1). -/
def lagSet (lagsel : BitVec 1) : List Nat := if lagsel = 0 then [1, 2, 8] else [1, 2, 4, 8]

/-- `asr(D[i], 1)` of a 16-bit delta (R148). -/
def halve (v : BitVec 16) : BitVec 16 := wrap16 (asr v.toInt 1)

/-- Halve `D[1 + L]` for each lag L of the set; `D[1 + L]` is element L of the list (R148). -/
def decay (lags : List Nat) (ds : List (BitVec 16)) : List (BitVec 16) :=
  lags.foldl (fun xs lag => xs.modify lag halve) ds

/-- The state of an order-N instance after a step with this sample and direction: adapt, bucket, average, history
write, delta write, decay, in the order of R149. -/
def Filter.nnUpdate (p : Params) (lagsel : BitVec 1) (x : Filter) (dir sample : Int) : Filter :=
  { x with
    weights := x.adapt dir
    hist := shiftIn x.forder.toNat (wrap16 (sat16 sample)) x.hist
    delta := decay (lagSet lagsel) (shiftIn x.forder.toNat (newDelta p.bucket sample x.avg) x.delta)
    avg := nextAvg sample x.avg }

/-- The steering direction: the sign of the sample, or of the residual (R149, R150; 90_conflicts.md C3). -/
def steer (c : AdaptDir) (sample residual : Int) : Int :=
  match c with
  | .sample => sgn sample
  | .residual => sgn residual

/-- One Decompress step of an order-N instance: output and next instance (R149). -/
def Filter.nnd (p : Params) (lagsel : BitVec 1) (x : Filter) (v : Word) : Word × Filter :=
  let out := wrap32 (v.toInt + x.pred)
  (out, x.nnUpdate p lagsel (steer p.adaptDir out.toInt v.toInt) out.toInt)

/-- One Compress step of an order-N instance (R150). -/
def Filter.nnc (p : Params) (lagsel : BitVec 1) (x : Filter) (v : Word) : Word × Filter :=
  let out := wrap32 (v.toInt - x.pred)
  (out, x.nnUpdate p lagsel (steer p.adaptDir v.toInt out.toInt) v.toInt)

/-! ### The first-order stage -/

/-- `asr(s(wrap32(last · MULTIPLY)), SHIFT)` (R155). -/
def Filter.foTerm (x : Filter) : Int := asr (wrap32 (x.last.toInt * x.fmul.toInt)).toInt x.fshift.toNat

/-- One Decompress step of a first-order instance (R155). -/
def Filter.fod (x : Filter) (v : Word) : Word × Filter :=
  let out := wrap32 (v.toInt + x.foTerm)
  (out, { x with last := out })

/-- One Compress step of a first-order instance (R156). -/
def Filter.foc (x : Filter) (v : Word) : Word × Filter :=
  (wrap32 (v.toInt - x.foTerm), { x with last := v })

/-! ### The cascade -/

/-- One decode stage: by FTYPE an NND step, an FOD step, or the value unchanged (R159). OPEN admits no other FTYPE
(log 15). -/
def Filter.decodeStage (p : Params) (lagsel : BitVec 1) (x : Filter) (v : Word) : Word × Filter :=
  if x.ftype = 1 then x.nnd p lagsel v else if x.ftype = 2 then x.fod v else (v, x)

/-- One compress stage (R160). -/
def Filter.encodeStage (p : Params) (lagsel : BitVec 1) (x : Filter) (v : Word) : Word × Filter :=
  if x.ftype = 1 then x.nnc p lagsel v else if x.ftype = 2 then x.foc v else (v, x)

/-- Run the instances `fs` in order, each feeding the next: the last output and the instances after it (R159). -/
def cascade (stage : Filter → Word → Word × Filter) :
    List (Fin 8) → Vector Filter 8 → Word → Word × Vector Filter 8
  | [], fs, v => (v, fs)
  | f :: rest, fs, v =>
    let r := stage (fs.get f) v
    cascade stage rest (fs.set f.val r.2 f.isLt) r.1

/-! ### The commands -/

/-- The checks of NND, NNC, FOD and FOC: instance number and kind (R140). -/
def State.stageChecks (s : State) (f : Nat) (kind : BitVec 2) : List (Bool × Err) :=
  [(!s.isOpen, .notOpen), (decide (8 ≤ f), .illegalOperand),
    (decide ((s.filter (instanceOf f)).ftype ≠ kind), .filterType)]

/-- NNC, FOC and CASC exist only when HAS_COMPRESS = 1: else the word is an illegal command, which is checked first
(R98, R140; log 11). -/
def State.compressChecks (s : State) : List (Bool × Err) := [(!s.cfg.hasCompress, .illegalCommand)]

/-- Write back the result of one step of instance `f` (R149 to R156). -/
def State.stageDone (s : State) (rd : Reg) (f : Fin 8) (r : Word × Filter) : State :=
  (s.setFilter f r.2).completeReg rd r.1

/-- NND rd, ra, f (R149). -/
def execNnd (rd ra : Reg) (f : Nat) (s : State) : Result :=
  checked s (encode (.nnd rd ra f)) (s.stageChecks f 1)
    (.next (s.stageDone rd (instanceOf f) ((s.filter (instanceOf f)).nnd s.cfg s.lagsel (s.reg ra))))

/-- NNC rd, ra, f (R150). -/
def execNnc (rd ra : Reg) (f : Nat) (s : State) : Result :=
  checked s (encode (.nnc rd ra f)) (s.compressChecks ++ s.stageChecks f 1)
    (.next (s.stageDone rd (instanceOf f) ((s.filter (instanceOf f)).nnc s.cfg s.lagsel (s.reg ra))))

/-- FOD rd, ra, f (R155). -/
def execFod (rd ra : Reg) (f : Nat) (s : State) : Result :=
  checked s (encode (.fod rd ra f)) (s.stageChecks f 2)
    (.next (s.stageDone rd (instanceOf f) ((s.filter (instanceOf f)).fod (s.reg ra))))

/-- FOC rd, ra, f (R156). -/
def execFoc (rd ra : Reg) (f : Nat) (s : State) : Result :=
  checked s (encode (.foc rd ra f)) (s.compressChecks ++ s.stageChecks f 2)
    (.next (s.stageDone rd (instanceOf f) ((s.filter (instanceOf f)).foc (s.reg ra))))

/-- The checks of CASD and CASC (R140). -/
def State.channelChecks (s : State) (ch : Nat) : List (Bool × Err) :=
  [(!s.isOpen, .notOpen), (s.badChannel ch, .illegalOperand)]

/-- Write back the result of a cascade (R159). -/
def State.cascadeDone (s : State) (rd : Reg) (r : Word × Vector Filter 8) : State :=
  State.completeReg { s with filters := r.2 } rd r.1

/-- CASD rd, ra, ch (R159): slots 0, 1, 2, 3. -/
def execCasd (rd ra : Reg) (ch : Nat) (s : State) : Result :=
  checked s (encode (.casd rd ra ch)) (s.channelChecks ch)
    (.next (s.cascadeDone rd
      (cascade (Filter.decodeStage s.cfg s.lagsel) (channelStages ch) s.filters (s.reg ra))))

/-- CASC rd, ra, ch (R160): slots 3, 2, 1, 0. -/
def execCasc (rd ra : Reg) (ch : Nat) (s : State) : Result :=
  checked s (encode (.casc rd ra ch)) (s.compressChecks ++ s.channelChecks ch)
    (.next (s.cascadeDone rd
      (cascade (Filter.encodeStage s.cfg s.lagsel) (channelStages ch).reverse s.filters (s.reg ra))))

/-- FLUSHF f (R161). -/
def execFlushf (f : Nat) (s : State) : Result :=
  checked s (encode (.flushf f)) [(!s.isOpen, .notOpen), (decide (8 ≤ f), .illegalOperand)]
    (.next ((s.setFilter (instanceOf f) (s.filter (instanceOf f)).flush).complete 0#32))

/-- FLUSHA (R162). -/
def execFlusha (s : State) : Result :=
  checked s (encode .flusha) [(!s.isOpen, .notOpen)] (.next (s.flushAll.complete 0#32))

/-- SAT16 rd, ra (R163). -/
def execSat16 (rd ra : Reg) (s : State) : Result :=
  .next (s.completeReg rd (wrap32 (sat16 (s.reg ra).toInt)))

end Sys2Proof.Machine
end

