-- ==== Sys2Proof/Machine/BitReader.lean ====
section
/-! DEFINITION. The bit extractor and Rice decoder: DEC, ALIGN, FILL, FILLR, SEEK, ZZ (spec/40_bitreader.md). -/

namespace Sys2Proof.Machine

/-! ### The bit sequence -/

/-- `byteidx(i)` with W = `W` (R62). -/
def byteIdx (W i : Nat) : Nat := W * (i / (8 * W)) + (W - 1 - i % (8 * W) / 8)

/-- `bit(i)` of a window (R62). -/
def windowBit (W : Nat) (win : List Byte) (i : Nat) : Nat :=
  ((win[byteIdx W i]?).getD 0#8).toNat / 2 ^ (7 - i % 8) % 2

/-- `bit(i)` of the cursor's window (R62). -/
def State.bitAt (s : State) (i : Nat) : Nat := windowBit s.cfg.streamWordBytes s.win i

/-- The value of the n-bit field at bit index p: the first bit is the most significant (R63). -/
def State.fieldAt (s : State) (p : Nat) : Nat → Nat
  | 0 => 0
  | n + 1 => 2 * s.fieldAt p n + s.bitAt (p + n)

/-- `avail = bitsheld − bitpos` (R111). -/
def State.avail (s : State) : Nat := s.bitsHeld - s.bitpos.toNat

/-! ### DEC with a fixed width -/

/-- The checks common to DEC, with the operand check of the method (R110, R112 to R114). -/
def State.decChecks (s : State) (badOperand : Bool) : List (Bool × Err) :=
  [(!s.isOpen, .notOpen), (badOperand, .illegalOperand), (!s.bvalid, .cursorInvalid)]

/-- The n-bit field at the cursor is consumed into `rd` (R112). -/
def State.takeBits (s : State) (rd : Reg) (n : Nat) : State :=
  State.completeReg { s with bitpos := s.bitpos + BitVec.ofNat 32 n } rd
    (BitVec.ofNat 32 (s.fieldAt s.bitpos.toNat n))

/-- Decode a fixed-width field for the command word `w` (R112, R113). -/
def decBits (w : Word) (rd : Reg) (n : Nat) (s : State) : Result :=
  checked s w (s.decChecks (decide (32 < n)) ++ [(decide (s.avail < n), .bitUnderrun)])
    (.next (s.takeBits rd n))

/-- DEC rd, UINT, n (R112). -/
def execDecUint (rd : Reg) (n : Nat) (s : State) : Result := decBits (encode (.decUint rd n)) rd n s

/-- DEC rd, XBITS, n (R113). -/
def execDecXbits (rd : Reg) (n : Nat) (s : State) : Result := decBits (encode (.decXbits rd n)) rd n s

/-! ### DEC RICE -/

/-- The unary quotient from bit index p, of the `left` bits the window still holds: the quotient and the index after
the 0 that ends it; none when the window ends first (R114). -/
def State.unary (s : State) (p q : Nat) : Nat → Option (Nat × Nat)
  | 0 => none
  | left + 1 => if s.bitAt p = 0 then some (q, p + 1) else s.unary (p + 1) (q + 1) left

/-- The Rice code at the cursor for parameter k (R114, R120): its value `q · 2^k + r` and the index after it; none for
BitUnderrun. The value may be 2^32 or more. -/
def State.riceCode (s : State) (k : Nat) : Option (Nat × Nat) :=
  match s.unary s.bitpos.toNat 0 s.avail with
  | none => none
  | some (q, p) => if s.bitsHeld - p < k then none else some (q * 2 ^ k + s.fieldAt p k, p + k)

/-- The default RICE_ADAPT (R121). -/
def riceAdaptStandard (k : BitVec 5) (ksum v : Word) : BitVec 5 × Word :=
  let ksum' : Nat := (ksum.toNat + v.toNat - (ksum.toNat + 8) / 16) % 2 ^ 32
  let lo : Nat := if k = 0 then 0 else 2 ^ (k.toNat + 4)
  let hi : Nat := 2 ^ (k.toNat + 5)
  let k' : Nat := if ksum' < lo then k.toNat - 1 else if hi ≤ ksum' ∧ k.toNat < 26 then k.toNat + 1 else k.toNat
  (BitVec.ofNat 5 k', BitVec.ofNat 32 ksum')

/-- RICE_ADAPT of this hardware (R7, R121). -/
def riceAdapt (c : RiceAdaptChoice) (k : BitVec 5) (ksum v : Word) : BitVec 5 × Word :=
  match c with
  | .standard => riceAdaptStandard k ksum v
  | .other => Config.otherRiceAdapt k ksum v

/-- A Rice code of value `v` that ends at `p` is consumed into `rd`, and the slot adapts (R114). -/
def State.takeRice (s : State) (rd : Reg) (i : Fin 2) (v p : Nat) : State :=
  let a := riceAdapt s.cfg.riceAdapt (s.rk.get i) (s.rksum.get i) (BitVec.ofNat 32 v)
  State.completeReg
    { s with
      rk := s.rk.set i.val a.1 i.isLt
      rksum := s.rksum.set i.val a.2 i.isLt
      bitpos := BitVec.ofNat 32 p } rd (BitVec.ofNat 32 v)

/-- DEC rd, RICE, s (R114): BitUnderrun is tested before RiceOverflow. -/
def execDecRice (rd : Reg) (slot : Nat) (s : State) : Result :=
  checked s (encode (.decRice rd slot)) (s.decChecks (decide (2 ≤ slot)))
    (match s.riceCode (s.rk.get (slotOf slot)).toNat with
      | none => .next (s.raise .bitUnderrun (encode (.decRice rd slot)))
      | some (v, p) =>
        if 2 ^ 32 ≤ v then .next (s.raise .riceOverflow (encode (.decRice rd slot)))
        else .next (s.takeRice rd (slotOf slot) v p))

/-! ### ALIGN -/

/-- ALIGN (R122): `bitpos <- 8 · ceil(bitpos / 8)`. -/
def execAlign (s : State) : Result :=
  checked s (encode .align) [(!s.isOpen, .notOpen), (!s.bvalid, .cursorInvalid)]
    (.next (State.complete { s with bitpos := BitVec.ofNat 32 (8 * ((s.bitpos.toNat + 7) / 8)) } 0#32))

/-! ### FILL -/

/-- Bytes of wholly consumed words, dropped by FILL (R123). -/
def State.fillDrop (s : State) : Nat :=
  s.cfg.streamWordBytes * (s.bitpos.toNat / (8 * s.cfg.streamWordBytes))

/-- Bytes FILL reads (R123). -/
def State.fillCount (s : State) : Nat :=
  s.cfg.streamWordBytes *
    (min (s.cfg.bufBytes - (s.win.length - s.fillDrop)) (s.srcsize.toNat - s.srcpos.toNat) / s.cfg.streamWordBytes)

/-- FILL's update of the cursor with the `n` bytes `bs` it has read (R123). -/
def State.refill (s : State) (bs : List Byte) (n : Nat) : State :=
  let srcpos' := s.srcpos.toNat + n
  { s with
    win := s.win.drop s.fillDrop ++ bs
    bitpos := BitVec.ofNat 32 (s.bitpos.toNat - 8 * s.fillDrop)
    srcpos := BitVec.ofNat 32 srcpos'
    furthest := BitVec.ofNat 32 (max s.furthest.toNat srcpos') }

/-- A failed read: BVALID is cleared and the positions keep their values (R233). -/
def State.cursorLost (s : State) : State := { s with bvalid := false }

/-- FILL (R123). With nothing to read it does no `SrcRead` and cannot fail (R61). -/
def execFill (s : State) : Result :=
  checked s (encode .fill) [(!s.isOpen, .notOpen), (!s.bvalid, .cursorInvalid)]
    (if s.fillCount = 0 then .next ((s.refill [] 0).complete 0#32)
    else
      match s.srcRead s.srcpos.toNat s.fillCount with
      | .ok bs => .next ((s.readDone.refill bs s.fillCount).complete 0#32)
      | .fail => .next (s.readDone.cursorLost.raise .ioError (encode .fill))
      | .never => .fault .sourceNeverAnswers)

/-! ### FILLR and SEEK -/

/-- Bytes FILLR and SEEK read at position `pos` (R124). -/
def State.windowCount (s : State) (pos : Nat) : Nat :=
  s.cfg.streamWordBytes * (min s.cfg.bufBytes (s.srcsize.toNat - pos) / s.cfg.streamWordBytes)

/-- The checks of FILLR and SEEK for position `pos` and bit index `bi` (R124, R125). -/
def State.refillChecks (s : State) (pos bi : Nat) : List (Bool × Err) :=
  [(!s.isOpen, .notOpen), (decide (s.srcsize.toNat < pos), .illegalOperand),
    (decide (8 * s.windowCount pos ≤ bi), .illegalOperand)]

/-- The new window `bs` of `n` bytes from `pos`, the cursor at bit `bi` (R124). -/
def State.newWindow (s : State) (pos n bi : Nat) (bs : List Byte) : State :=
  { s with
    win := bs
    bitpos := BitVec.ofNat 32 bi
    srcpos := BitVec.ofNat 32 (pos + n)
    furthest := BitVec.ofNat 32 (max s.furthest.toNat (pos + n))
    bvalid := true }

/-- FILLR "from its SrcRead on" (R124, R125). -/
def fillFrom (w : Word) (pos bi : Nat) (s : State) : Result :=
  match s.srcRead pos (s.windowCount pos) with
  | .ok bs => .next ((s.readDone.newWindow pos (s.windowCount pos) bi bs).complete 0#32)
  | .fail => .next (s.readDone.cursorLost.raise .ioError w)
  | .never => .fault .sourceNeverAnswers

/-- FILLR ra, rb (R124). -/
def execFillr (ra rb : Reg) (s : State) : Result :=
  checked s (encode (.fillr ra rb)) (s.refillChecks (s.reg ra).toNat (s.reg rb).toNat)
    (fillFrom (encode (.fillr ra rb)) (s.reg ra).toNat (s.reg rb).toNat s)

/-- SEEK ra, rb (R125): every filter instance is flushed, and stays so if the read fails. -/
def execSeek (ra rb : Reg) (s : State) : Result :=
  checked s (encode (.seek ra rb)) (s.refillChecks (s.reg ra).toNat (s.reg rb).toNat)
    (fillFrom (encode (.seek ra rb)) (s.reg ra).toNat (s.reg rb).toNat s.flushAll)

/-! ### ZZ -/

/-- The signed residual of an unsigned code (R126). -/
def zigzag (v : Word) : Word :=
  if v.toNat % 2 = 1 then wrap32 ((v.toNat : Int) / 2 + 1) else wrap32 (-((v.toNat : Int) / 2))

/-- ZZ rd, ra (R126). -/
def execZz (rd ra : Reg) (s : State) : Result := .next (s.completeReg rd (zigzag (s.reg ra)))

end Sys2Proof.Machine
end

