-- ==== Sys2Proof/Machine/Channel.lean ====
section
/-! DEFINITION. The channel reconstructor: MS2LR and MONO (spec/42_channel.md). -/

namespace Sys2Proof.Machine

/-- `h`, half the difference: toward zero when MSROUND = 0, toward minus infinity when MSROUND = 1 (R180). -/
def halfDiff (msround : BitVec 1) (y : Int) : Int := if msround = 0 then tdiv y 2 else asr y 1

/-- The right sample `R = wrap32(X − h)` (R180). -/
def rightSample (msround : BitVec 1) (mid diff : Word) : Word :=
  wrap32 (mid.toInt - halfDiff msround diff.toInt)

/-- The left sample `L = wrap32(s(R) + Y)` (R180). -/
def leftSample (msround : BitVec 1) (mid diff : Word) : Word :=
  wrap32 ((rightSample msround mid diff).toInt + diff.toInt)

/-- MS2LR rd, rc, ra, rb (R180): both sources are read before either destination is written. -/
def execMs2lr (rd rc ra rb : Reg) (s : State) : Result :=
  checked s (encode (.ms2lr rd rc ra rb)) [(decide (rd = rc), .illegalOperand)]
    (.next (((s.setReg rd (leftSample s.msround (s.reg ra) (s.reg rb))).setReg rc
      (rightSample s.msround (s.reg ra) (s.reg rb))).complete (leftSample s.msround (s.reg ra) (s.reg rb))))

/-- MONO rd, ra (R181). -/
def execMono (rd ra : Reg) (s : State) : Result := .next (s.completeReg rd (s.reg ra))

end Sys2Proof.Machine
end

