-- ==== Sys2Proof/Machine/Output.lean ====
section
/-! DEFINITION. The PCM output and the frame CRC: EMIT, SIL, CRCS, CRCE (spec/43_output_crc.md). -/

namespace Sys2Proof.Machine

/-- The low `n` bytes of a word, least significant first (R191). -/
def lowBytes (v : Word) : Nat → List Byte
  | 0 => []
  | n + 1 => v.setWidth 8 :: lowBytes (v >>> 8) n

/-- `pack(v)` (R191, R67). -/
def pack (bigEndian : Bool) (n : Nat) (v : Word) : List Byte :=
  if bigEndian then (lowBytes v n).reverse else lowBytes v n

/-- The bytes of the channels `c`, `c + 1`, ... (`left` of them): the first sample for channel 0, the second for every
other (R190). -/
def channelBytes (bigEndian : Bool) (n : Nat) (first second : Word) (c : Nat) : Nat → List Byte
  | 0 => []
  | left + 1 =>
    pack bigEndian n (if c = 0 then first else second) ++ channelBytes bigEndian n first second (c + 1) left

/-- The bytes EMIT appends for the samples `a` and `b` (R190). -/
def State.blockBytes (s : State) (a b : Word) : List Byte :=
  channelBytes s.cfg.pcmBigEndian s.bytesPerSample a b 0 s.channels.toNat

/-- One of the eight shifts of `crc_byte` (R194). -/
def crcShift (poly acc : Word) : Word := if acc.toNat % 2 = 1 then (acc >>> 1) ^^^ poly else acc >>> 1

/-- `crc_byte(acc, b)` (R194). -/
def crcByte (poly acc : Word) (b : Byte) : Word := (crcShift poly)^[8] (acc ^^^ b.setWidth 32)

/-- The accumulator after the bytes `bs` in order (R190, R194). -/
def crcBytes (poly acc : Word) (bs : List Byte) : Word := bs.foldl (crcByte poly) acc

/-- `crc_final(acc)` (R194). -/
def crcFinal (p : Params) (acc : Word) : Word := (acc ^^^ p.crcXorout) >>> p.crcFinalShift.val

/-- EMIT's effect: the bytes are appended and folded into the CRC in the same order (R190). -/
def State.emitBytes (s : State) (bs : List Byte) : State :=
  State.append { s with crcacc := crcBytes s.cfg.crcPoly s.crcacc bs } bs

/-- EMIT ra, rb (R190). -/
def execEmit (ra rb : Reg) (s : State) : Result :=
  checked s (encode (.emit ra rb)) [(!s.isOpen, .notOpen)]
    (.next ((s.emitBytes (s.blockBytes (s.reg ra) (s.reg rb))).complete 0#32))

/-- SIL (R192): SILCNT blocks of zero bytes, outside the CRC; the product does not wrap (93 U19). -/
def execSil (s : State) : Result :=
  checked s (encode .sil) [(!s.isOpen, .notOpen)]
    (.next ((State.append { s with silcnt := 0 }
      (List.replicate (s.silcnt.toNat * s.blockAlign) 0#8)).complete 0#32))

/-- CRCS (R193). -/
def execCrcs (s : State) : Result :=
  checked s (encode .crcs) [(!s.isOpen, .notOpen)]
    (.next (State.complete { s with crcacc := s.cfg.crcInit, ferr := false } 0#32))

/-- CRCE rd (R195): a match writes 1; a mismatch writes 0, sets FERR and is the soft error FrameIntegrityError. -/
def execCrce (rd : Reg) (s : State) : Result :=
  checked s (encode (.crce rd)) [(!s.isOpen, .notOpen)]
    (if crcFinal s.cfg s.crcacc = s.crcstored then .next (s.completeReg rd 1#32)
    else .next (State.raise (State.setReg { s with ferr := true } rd 0#32) .frameIntegrityError
      (encode (.crce rd))))

end Sys2Proof.Machine
end

