-- ==== Sys2Proof/Machine/System.lean ====
section
/-! DEFINITION. The register, CSR and session commands: NOP, LI, LIH, MOV, CSRR, CSRW, OPEN, CLOSE
(spec/44_system.md), and the answer to an illegal word (spec/30_encoding.md R98). -/

namespace Sys2Proof.Machine

/-- The hard error IllegalCommand of a word that spells no command (R98, R236). -/
def execIllegal (w : Word) (s : State) : Result := .next (s.raise .illegalCommand w)

/-- NOP (R210). -/
def execNop (s : State) : Result := .next (s.complete 0#32)

/-- LI rd, imm16 (R211); the decoder has sign-extended the immediate. -/
def execLi (rd : Reg) (imm : Int) (s : State) : Result := .next (s.completeReg rd (wrap32 imm))

/-- `imm16 ‖ v[15:0]` (R212). -/
def withHigh (imm : Nat) (v : Word) : Word := BitVec.ofNat 32 (imm % 65536 * 65536 + v.toNat % 65536)

/-- LIH rd, imm16 (R212). -/
def execLih (rd : Reg) (imm : Nat) (s : State) : Result := .next (s.completeReg rd (withHigh imm (s.reg rd)))

/-- MOV rd, ra (R213). -/
def execMov (rd ra : Reg) (s : State) : Result := .next (s.completeReg rd (s.reg ra))

/-- CSRR rd, csr (R214). -/
def execCsrr (rd : Reg) (csr : Nat) (s : State) : Result :=
  match csrAt csr with
  | none => .next (s.raise .illegalOperand (encode (.csrr rd csr)))
  | some c => .next (s.completeReg rd (s.csrValue c))

/-- The checks of CSRW: existence and writability before the session state (R215, R240). -/
def State.csrwChecks (s : State) (c : Option Csr) : List (Bool × Err) :=
  [(csrNotWritable c, .illegalOperand), (csrIsCfg c && s.isOpen, .notClosed)]

/-- CSRW csr, ra (R215). -/
def execCsrw (csr : Nat) (ra : Reg) (s : State) : Result :=
  checked s (encode (.csrw csr ra)) (s.csrwChecks (csrAt csr))
    (match csrAt csr with
      | none => .next (s.raise .illegalOperand (encode (.csrw csr ra)))
      | some c => .next ((s.csrSet c (s.reg ra)).complete 0#32))

/-- OPEN accepts the instance (R33, R216). -/
def Filter.configOk (p : Params) (x : Filter) : Bool :=
  decide (x.ftype ≠ 3) &&
    (decide (x.ftype ≠ 1) ||
      decide (x.forder.toNat ≠ 0 ∧ x.forder.toNat % 16 = 0 ∧ x.forder.toNat ≤ p.maxOrder ∧ x.fshift.toNat ≠ 0))

/-- OPEN accepts VERSION, CHANNELS and BITSPS (R30, R216). -/
def State.headerOk (s : State) : Bool :=
  decide (s.cfg.verMin ≤ s.version.toNat ∧ s.version.toNat ≤ s.cfg.verMax) &&
    decide (s.channels = 1 ∨ s.channels = 2) && decide (s.bitsps = 8 ∨ s.bitsps = 16 ∨ s.bitsps = 24)

/-- OPEN accepts all eight instances, those of channel 1 of a mono stream too (R33, R216). -/
def State.filtersOk (s : State) : Bool := (List.finRange 8).all fun f => (s.filter f).configOk s.cfg

/-- The checks of OPEN, InitializationError before ConfigError (R216, R240). -/
def State.openChecks (s : State) : List (Bool × Err) :=
  [(s.isOpen, .notClosed), (!s.headerOk, .initializationError),
    (decide (2 ^ 32 ≤ s.srcLen), .initializationError), (!s.filtersOk, .configError)]

/-- The session state OPEN sets up (R216). -/
def State.beginSession (s : State) : State :=
  { s.flushAll with
    isOpen := true
    bvalid := false
    ferr := false
    win := []
    bitpos := 0
    srcpos := 0
    furthest := 0
    srcsize := BitVec.ofNat 32 s.srcLen
    rk := Vector.replicate 2 s.cfg.riceKReset
    rksum := Vector.replicate 2 s.cfg.riceKsumReset
    crcacc := s.cfg.crcInit
    crcstored := 0
    silcnt := 0 }

/-- OPEN (R216). -/
def execOpen (s : State) : Result :=
  checked s (encode .openSession) s.openChecks (.next (s.beginSession.complete 0#32))

/-- CLOSE (R217): OPEN and BVALID are cleared, everything else is kept. -/
def execClose (s : State) : Result :=
  checked s (encode .closeSession) [(!s.isOpen, .notOpen)]
    (.next (State.complete { s with isOpen := false, bvalid := false } 0#32))

end Sys2Proof.Machine
end

