-- ==== Sys2Proof/Machine/Dispatch.lean ====
section
/-! DEFINITION. The meaning of each command: one arm per constructor of Instr. -/

namespace Sys2Proof.Machine

def exec (i : Instr) (s : State) : Host.Outcome State Fault Refusal :=
  match i with
  | .nop => Sys2Proof.Machine.execNop s
  | .li rd imm => Sys2Proof.Machine.execLi rd imm s
  | .lih rd imm => Sys2Proof.Machine.execLih rd imm s
  | .mov rd ra => Sys2Proof.Machine.execMov rd ra s
  | .csrr rd csr => Sys2Proof.Machine.execCsrr rd csr s
  | .csrw csr ra => Sys2Proof.Machine.execCsrw csr ra s
  | .openSession => Sys2Proof.Machine.execOpen s
  | .closeSession => Sys2Proof.Machine.execClose s
  | .decUint rd n => Sys2Proof.Machine.execDecUint rd n s
  | .decRice rd slot => Sys2Proof.Machine.execDecRice rd slot s
  | .decXbits rd n => Sys2Proof.Machine.execDecXbits rd n s
  | .align => Sys2Proof.Machine.execAlign s
  | .fill => Sys2Proof.Machine.execFill s
  | .fillr ra rb => Sys2Proof.Machine.execFillr ra rb s
  | .seek ra rb => Sys2Proof.Machine.execSeek ra rb s
  | .zz rd ra => Sys2Proof.Machine.execZz rd ra s
  | .nnd rd ra f => Sys2Proof.Machine.execNnd rd ra f s
  | .nnc rd ra f => Sys2Proof.Machine.execNnc rd ra f s
  | .fod rd ra f => Sys2Proof.Machine.execFod rd ra f s
  | .foc rd ra f => Sys2Proof.Machine.execFoc rd ra f s
  | .casd rd ra ch => Sys2Proof.Machine.execCasd rd ra ch s
  | .casc rd ra ch => Sys2Proof.Machine.execCasc rd ra ch s
  | .flushf f => Sys2Proof.Machine.execFlushf f s
  | .flusha => Sys2Proof.Machine.execFlusha s
  | .sat16 rd ra => Sys2Proof.Machine.execSat16 rd ra s
  | .ms2lr rd rc ra rb => Sys2Proof.Machine.execMs2lr rd rc ra rb s
  | .mono rd ra => Sys2Proof.Machine.execMono rd ra s
  | .emit ra rb => Sys2Proof.Machine.execEmit ra rb s
  | .sil => Sys2Proof.Machine.execSil s
  | .crcs => Sys2Proof.Machine.execCrcs s
  | .crce rd => Sys2Proof.Machine.execCrce rd s

end Sys2Proof.Machine
end

