-- ==== Sys2Proof/Machine/Step.lean ====
section
/-! DEFINITION. One step: the host's next move (spec/00_scope.md R13, spec/70_reset_and_hazards.md R284). -/

namespace Sys2Proof.Machine

/-- One command word, executed to its response (R13): what it spells, or IllegalCommand. -/
def runCommand (w : Word) (s : State) : Result :=
  match decode w with
  | .command i => exec i s
  | .illegal _ => execIllegal w s

/-- Reset while `w` executes (R270). -/
def resetCommand (w : Word) (appended : Nat) (s : State) : Result :=
  match runCommand w s with
  | .next done => .next (s.abandon done appended)
  | .fault _ => .next s.hwReset
  | .refused _ => .next s.hwReset

/-- One step. With no move of the host the block is idle and holds all state (R258, R283). -/
def step (s : State) : Host.Outcome State Fault Refusal :=
  match s.inbox with
  | [] => .next s
  | .command w :: rest => runCommand w { s with inbox := rest }
  | .reset :: rest => .next (State.hwReset { s with inbox := rest })
  | .resetDuring w appended :: rest => resetCommand w appended { s with inbox := rest }

/-- The host's next move is the command word with bits `w` (bits above `nbits` are 0; every command has 32). -/
def State.withFetchWord (s : State) (nbits w : Nat) : State :=
  { s with inbox := .command (BitVec.ofNat 32 (w % 2 ^ nbits)) :: s.inbox }

end Sys2Proof.Machine
end

