-- ==== Sys2Proof/Safety.lean ====
section
/-! DEFINITION. What a good state is, and what it is for a command to be answered, in the terms the claims use. -/

namespace Sys2Proof.Machine

/-- Every command window of an order-N instance has N elements, and no other instance holds any (R41). -/
abbrev Filter.Sized (x : Filter) : Prop :=
  x.weights.length = x.taps ∧ x.hist.length = x.taps ∧ x.delta.length = x.taps

/-- The declared ranges of the state (93_implementation_defined.md U8: "No command can leave the state outside its
declared ranges"). The cursor's clauses are R40's and hold whether or not BVALID is set. -/
structure State.Inv (s : State) : Prop where
  /-- The hardware's parameters have legal values (R7). -/
  cfgLegal : s.cfg.Legal
  /-- The byte source is in canonical form. -/
  srcWf : s.src.wf
  /-- No byte lies at or beyond the size of the source (R60). -/
  srcBound : ∀ c ∈ s.src, c.1 < s.srcLen
  /-- `bitpos ≤ bitsheld` (R40, 90_conflicts.md C5). -/
  bitposLe : s.bitpos.toNat ≤ s.bitsHeld
  /-- `len(win)` is a multiple of STREAM_WORD_BYTES (R40). -/
  winWords : s.win.length % s.cfg.streamWordBytes = 0
  /-- The window holds at most BUF_BYTES bytes (R40). -/
  winCap : s.win.length ≤ s.cfg.bufBytes
  /-- `srcpos ≤ srcsize` (R40). -/
  srcposLe : s.srcpos.toNat ≤ s.srcsize.toNat
  /-- `furthest ≥ srcpos` (R40). -/
  furthestGe : s.srcpos.toNat ≤ s.furthest.toNat
  /-- `furthest` is a value `srcpos` has had, so at most `srcsize` (R40, R128). -/
  furthestLe : s.furthest.toNat ≤ s.srcsize.toNat
  /-- The window ends at `srcpos` and starts at `srcpos − len(win)` (R40). -/
  winBehind : s.win.length ≤ s.srcpos.toNat
  /-- The window is a copy of the source from `srcpos − len(win)` on (R40, R72). -/
  winBytes : s.win = s.src.readBytes (s.srcpos.toNat - s.win.length) s.win.length
  /-- While open, `srcsize` is the size OPEN has asked for (R40, R73). -/
  sizeOpen : s.isOpen = true → s.srcsize.toNat = s.srcLen
  /-- A valid cursor belongs to an open session (R22, R251). -/
  validOpen : s.bvalid = true → s.isOpen = true
  /-- While open, VERSION, CHANNELS and BITSPS are legal (R30). -/
  headerOpen : s.isOpen = true → s.headerOk = true
  /-- While open, every filter configuration is legal (R33). -/
  filtersOpen : s.isOpen = true → s.filtersOk = true
  /-- While open, every instance has its N taps (R41). -/
  sizedOpen : s.isOpen = true → ∀ f, (s.filter f).Sized
  /-- The running averages are in 0 .. 2^31 − 1 (R41). -/
  avgBound : ∀ f, (s.filter f).avg.toNat < 2 ^ 31
  /-- LASTERR is 0 or a code of R232. -/
  lasterrCode : s.lasterr.toNat ≤ 12

/-- The command was answered: the machine did not stop. -/
def Answered (r : Result) : Prop := ∃ t, r = .next t

end Sys2Proof.Machine

namespace Sys2Proof

/-- The data registers a command names as destinations (R20, R96). -/
def Instr.dests : Instr → List Reg
  | .nop => []
  | .li rd _ => [rd]
  | .lih rd _ => [rd]
  | .mov rd _ => [rd]
  | .csrr rd _ => [rd]
  | .csrw _ _ => []
  | .openSession => []
  | .closeSession => []
  | .decUint rd _ => [rd]
  | .decRice rd _ => [rd]
  | .decXbits rd _ => [rd]
  | .align => []
  | .fill => []
  | .fillr _ _ => []
  | .seek _ _ => []
  | .zz rd _ => [rd]
  | .nnd rd _ _ => [rd]
  | .nnc rd _ _ => [rd]
  | .fod rd _ _ => [rd]
  | .foc rd _ _ => [rd]
  | .casd rd _ _ => [rd]
  | .casc rd _ _ => [rd]
  | .flushf _ => []
  | .flusha => []
  | .sat16 rd _ => [rd]
  | .ms2lr rd rc _ _ => [rd, rc]
  | .mono rd _ => [rd]
  | .emit _ _ => []
  | .sil => []
  | .crcs => []
  | .crce rd => [rd]

/-- The commands that answer NotOpen while OPEN = 0 (R232, R251). -/
def Instr.needsOpen : Instr → Bool
  | .nop => false
  | .li _ _ => false
  | .lih _ _ => false
  | .mov _ _ => false
  | .csrr _ _ => false
  | .csrw _ _ => false
  | .openSession => false
  | .closeSession => true
  | .decUint _ _ => true
  | .decRice _ _ => true
  | .decXbits _ _ => true
  | .align => true
  | .fill => true
  | .fillr _ _ => true
  | .seek _ _ => true
  | .zz _ _ => false
  | .nnd _ _ _ => true
  | .nnc _ _ _ => true
  | .fod _ _ _ => true
  | .foc _ _ _ => true
  | .casd _ _ _ => true
  | .casc _ _ _ => true
  | .flushf _ => true
  | .flusha => true
  | .sat16 _ _ => false
  | .ms2lr _ _ _ _ => false
  | .mono _ _ => false
  | .emit _ _ => true
  | .sil => true
  | .crcs => true
  | .crce _ => true

/-- The commands that exist only when HAS_COMPRESS = 1 (R96). -/
def Instr.isCompress : Instr → Bool
  | .nop => false
  | .li _ _ => false
  | .lih _ _ => false
  | .mov _ _ => false
  | .csrr _ _ => false
  | .csrw _ _ => false
  | .openSession => false
  | .closeSession => false
  | .decUint _ _ => false
  | .decRice _ _ => false
  | .decXbits _ _ => false
  | .align => false
  | .fill => false
  | .fillr _ _ => false
  | .seek _ _ => false
  | .zz _ _ => false
  | .nnd _ _ _ => false
  | .nnc _ _ _ => true
  | .fod _ _ _ => false
  | .foc _ _ _ => true
  | .casd _ _ _ => false
  | .casc _ _ _ => true
  | .flushf _ => false
  | .flusha => false
  | .sat16 _ _ => false
  | .ms2lr _ _ _ _ => false
  | .mono _ _ => false
  | .emit _ _ => false
  | .sil => false
  | .crcs => false
  | .crce _ => false

/-- The commands that may read the byte source (R60). -/
def Instr.readsSource : Instr → Bool
  | .nop => false
  | .li _ _ => false
  | .lih _ _ => false
  | .mov _ _ => false
  | .csrr _ _ => false
  | .csrw _ _ => false
  | .openSession => false
  | .closeSession => false
  | .decUint _ _ => false
  | .decRice _ _ => false
  | .decXbits _ _ => false
  | .align => false
  | .fill => true
  | .fillr _ _ => true
  | .seek _ _ => true
  | .zz _ _ => false
  | .nnd _ _ _ => false
  | .nnc _ _ _ => false
  | .fod _ _ _ => false
  | .foc _ _ _ => false
  | .casd _ _ _ => false
  | .casc _ _ _ => false
  | .flushf _ => false
  | .flusha => false
  | .sat16 _ _ => false
  | .ms2lr _ _ _ _ => false
  | .mono _ _ => false
  | .emit _ _ => false
  | .sil => false
  | .crcs => false
  | .crce _ => false

/-- The commands that step or flush filter instances by name (R140). -/
def Instr.stepsFilter : Instr → Bool
  | .nop => false
  | .li _ _ => false
  | .lih _ _ => false
  | .mov _ _ => false
  | .csrr _ _ => false
  | .csrw _ _ => false
  | .openSession => false
  | .closeSession => false
  | .decUint _ _ => false
  | .decRice _ _ => false
  | .decXbits _ _ => false
  | .align => false
  | .fill => false
  | .fillr _ _ => false
  | .seek _ _ => false
  | .zz _ _ => false
  | .nnd _ _ _ => true
  | .nnc _ _ _ => true
  | .fod _ _ _ => true
  | .foc _ _ _ => true
  | .casd _ _ _ => true
  | .casc _ _ _ => true
  | .flushf _ => true
  | .flusha => true
  | .sat16 _ _ => false
  | .ms2lr _ _ _ _ => false
  | .mono _ _ => false
  | .emit _ _ => false
  | .sil => false
  | .crcs => false
  | .crce _ => false

end Sys2Proof
end

