-- ==== Sys2Proof/Certificates/Slice0/Obligations.lean ====
section
/-! DEFINITION. The statements for the provers. Sys2Proof.Spec writes the spec's formulas down once more, in the spec's
own indices and sums, so that a statement does not say of a function of the model that it equals itself. -/

namespace Sys2Proof.Spec

open Sys2Proof.Machine

/-- `respond(OK, v)` (R97) and the count of R21: nothing else changes. -/
def okAfter (s : State) (v : Word) : State :=
  { s with responses := s.responses ++ [⟨0#8, v⟩], seq := s.seq + 1 }

/-- `d[rd] <- v ; respond(OK, v)`. -/
def okReg (s : State) (rd : Reg) (v : Word) : State :=
  okAfter { s with d := s.d.set rd.val v rd.isLt } v

/-- A format R word (R91): `op ‖ rd ‖ ra ‖ rb ‖ rc ‖ imm8`. -/
def wordR (op : Byte) (rd ra rb rc : Reg) (imm8 : Byte) : Word :=
  op ++ BitVec.ofNat 4 rd.val ++ BitVec.ofNat 4 ra.val ++ BitVec.ofNat 4 rb.val ++ BitVec.ofNat 4 rc.val ++ imm8

/-- A format I word (R92): `op ‖ rd ‖ 0000 ‖ imm16`. -/
def wordI (op : Byte) (rd : Reg) (imm16 : BitVec 16) : Word := op ++ BitVec.ofNat 4 rd.val ++ 0#4 ++ imm16

/-- A format D word (R93): `0x10 ‖ rd ‖ method ‖ 00 ‖ 00000000 ‖ param1`. -/
def wordD (rd : Reg) (method : BitVec 2) (param1 : Byte) : Word :=
  0x10#8 ++ BitVec.ofNat 4 rd.val ++ method ++ 0#2 ++ 0#8 ++ param1

/-- The error with this code, of the command word `w` (R236): the record, the response, the count. -/
def errAfter (s : State) (code : Byte) (w : Word) : State :=
  { s with
    errlog := s.errlog ||| (1#12 <<< (code.toNat - 1))
    lasterr := code
    lastcmd := w
    lastseq := s.seq
    responses := s.responses ++ [⟨code, 0#32⟩]
    seq := s.seq + 1 }

/-- `bit(i)` of R62. -/
def bit (W : Nat) (win : List Byte) (i : Nat) : Nat :=
  ((win.getD (W * (i / (8 * W)) + (W - 1 - (i % (8 * W)) / 8)) 0#8).getLsbD (7 - i % 8)).toNat

/-- The n-bit field at index p (R63). -/
def bits (W : Nat) (win : List Byte) (p n : Nat) : Nat :=
  ∑ t ∈ Finset.range n, bit W win (p + t) * 2 ^ (n - 1 - t)

/-- The n bytes of the source from `pos` (R61). -/
def sourceBytes (m : Memory) (pos n : Nat) : List Byte := (List.range n).map fun i => m.read (pos + i)

/-- `w[j]` of R41. -/
def w (x : Filter) (j : Nat) : Int := (x.weights.getD j 0).toInt
/-- `X[i]` of R41, the newest is `X[1]`. -/
def X (x : Filter) (i : Nat) : Int := (x.hist.getD (i - 1) 0).toInt
/-- `D[i]` of R41, the newest is `D[1]`. -/
def D (x : Filter) (i : Nat) : Int := (x.delta.getD (i - 1) 0).toInt
/-- `N = FORDER`. -/
def N (x : Filter) : Nat := x.forder.toNat

/-- `s(wrap32(z))`. -/
def s32 (z : Int) : Int := (BitVec.ofInt 32 z).toInt

/-- `pred` of R142. -/
def pred (x : Filter) : Int :=
  s32 (s32 (∑ j ∈ Finset.range (N x), w x j * X x (N x - j)) + 2 ^ (x.fshift.toNat - 1)) / 2 ^ x.fshift.toNat

/-- The lags of R148. -/
def lags (lagsel : BitVec 1) : List Nat := if lagsel = 1 then [1, 2, 4, 8] else [1, 2, 8]

/-- What a step with this direction and sample makes of an order-N instance (R143 to R148). -/
def nnStep (p : Params) (lagsel : BitVec 1) (x y : Filter) (dir sample : Int) : Prop :=
  (y.ftype = x.ftype ∧ y.forder = x.forder ∧ y.fshift = x.fshift ∧ y.fmul = x.fmul ∧ y.last = x.last) ∧
  (y.weights.length = N x ∧ y.hist.length = N x ∧ y.delta.length = N x) ∧
  (∀ j, j < N x → w y j = (BitVec.ofInt 16 (w x j + dir * D x (N x - j))).toInt) ∧
  X y 1 = max (-32768) (min sample 32767) ∧
  (∀ i, 1 ≤ i → i < N x → X y (i + 1) = X x i) ∧
  D y 1 = sample.sign * (bucketOf p.bucket sample.natAbs x.avg.toNat : Int) ∧
  (∀ i, 1 ≤ i → i < N x → D y (i + 1) = if i ∈ lags lagsel then D x i / 2 else D x i) ∧
  (y.avg.toNat : Int) = x.avg.toNat + ((sample.natAbs : Int) - x.avg.toNat).tdiv 16

/-- The low `n` bytes of a sample, least significant first, or reversed (R191). -/
def packed (bigEndian : Bool) (n : Nat) (v : Word) : List Byte :=
  let bs := (List.range n).map fun i => (v >>> (8 * i)).setWidth 8
  if bigEndian then bs.reverse else bs

/-- `crc_byte` of R194. -/
def crcByte (poly acc : Word) (b : Byte) : Word :=
  (List.range 8).foldl (fun a _ => if a.getLsbD 0 then (a >>> 1) ^^^ poly else a >>> 1) (acc ^^^ b.setWidth 32)

/-- `crc_final` of R194. -/
def crcFinal (p : Params) (acc : Word) : Word := (acc ^^^ p.crcXorout) >>> p.crcFinalShift.val

/-- LAPE's Flush (R161): the N weights, histories and deltas of a predictor, `avg` and `last` are 0. -/
def flushed (x : Filter) : Filter :=
  let n := if x.ftype = 1 then x.forder.toNat else 0
  { x with weights := List.replicate n 0, hist := List.replicate n 0, delta := List.replicate n 0, avg := 0, last := 0 }

/-- All eight instances flushed (R162). -/
def flushedAll (s : State) : Vector Filter 8 := Vector.ofFn fun f => flushed (s.filters.get f)

/-- The block is in its reset state (R47). -/
def AtReset (t : State) : Prop :=
  (∀ i, t.reg i = 0) ∧ t.seq = 0 ∧ t.isOpen = false ∧ t.bvalid = false ∧ t.ferr = false ∧
  t.errlog = 0 ∧ t.lasterr = 0 ∧ t.lastcmd = 0 ∧ t.lastseq = 0 ∧
  t.version = 0 ∧ t.channels = 0 ∧ t.bitsps = 0 ∧ t.lagsel = 0 ∧ t.msround = 0 ∧
  t.win = [] ∧ t.bitpos = 0 ∧ t.bitsHeld = 0 ∧ t.srcpos = 0 ∧ t.furthest = 0 ∧ t.srcsize = 0 ∧
  (∀ i, t.rk.get i = t.cfg.riceKReset) ∧ (∀ i, t.rksum.get i = t.cfg.riceKsumReset) ∧
  t.crcacc = t.cfg.crcInit ∧ t.crcstored = 0 ∧ t.silcnt = 0 ∧
  ∀ f, t.filters.get f = ⟨0, 0, 0, 0, [], [], [], 0, 0⟩

/-- FILLR's and SEEK's operands are in range (R124): the position, and the bit index in the window to be read. -/
def rangeOk (s : State) (pos bi : Nat) : Prop :=
  pos ≤ s.srcsize.toNat ∧
  bi < 8 * (s.cfg.streamWordBytes * (min s.cfg.bufBytes (s.srcsize.toNat - pos) / s.cfg.streamWordBytes))

/-- The bytes FILLR and SEEK read (R124). -/
def readCount (s : State) (pos : Nat) : Nat :=
  s.cfg.streamWordBytes * (min s.cfg.bufBytes (s.srcsize.toNat - pos) / s.cfg.streamWordBytes)

/-- The state after FILLR's source read has delivered (R124). -/
def refilled (s : State) (pos bi : Nat) : State :=
  { s with
    win := sourceBytes s.src pos (readCount s pos)
    bitpos := BitVec.ofNat 32 bi
    srcpos := BitVec.ofNat 32 (pos + readCount s pos)
    furthest := BitVec.ofNat 32 (max s.furthest.toNat (pos + readCount s pos))
    bvalid := true
    answers := s.answers.tail
    reads := s.reads + 1 }

/-- One stage of a decode cascade (R159), of a compress cascade (R160). -/
def stage (compress : Bool) (s : State) (x : Filter) (v : Word) : Word × Filter :=
  if x.ftype = 1 then (if compress then x.nnc s.cfg s.lagsel v else x.nnd s.cfg s.lagsel v)
  else if x.ftype = 2 then (if compress then x.foc v else x.fod v)
  else (v, x)

/-- OPEN's conditions on VERSION, CHANNELS, BITSPS and the source (R30, R216). -/
def headerLegal (s : State) : Prop :=
  (s.cfg.verMin ≤ s.version.toNat ∧ s.version.toNat ≤ s.cfg.verMax) ∧
  (s.channels.toNat = 1 ∨ s.channels.toNat = 2) ∧
  (s.bitsps.toNat = 8 ∨ s.bitsps.toNat = 16 ∨ s.bitsps.toNat = 24) ∧ s.srcLen < 2 ^ 32

/-- OPEN's condition on a filter instance (R33). -/
def filterLegal (p : Params) (x : Filter) : Prop :=
  x.ftype.toNat = 0 ∨ x.ftype.toNat = 2 ∨
  (x.ftype.toNat = 1 ∧ 0 < x.forder.toNat ∧ x.forder.toNat % 16 = 0 ∧ x.forder.toNat ≤ p.maxOrder ∧
    1 ≤ x.fshift.toNat)

/-- The configuration addresses (class CFG) of R25 with their widths, those of instance `f` among them. -/
def cfgAddresses (f : Fin 8) : List (Nat × Nat) :=
  [(0x08, 16), (0x09, 8), (0x0A, 8), (0x0D, 1), (0x0E, 1), (0x40 + 8 * f.val, 2), (0x41 + 8 * f.val, 16),
    (0x42 + 8 * f.val, 5), (0x43 + 8 * f.val, 32)]

/-- The addresses of class RW of R25 with their widths. -/
def rwAddresses : List (Nat × Nat) := [(0x18, 5), (0x19, 5), (0x1C, 32), (0x1D, 32), (0x21, 32), (0x22, 32)]

/-- The read-only addresses (class RO) of R25, those of instance `f` among them. -/
def roAddresses (f : Fin 8) : List Nat :=
  [0x00, 0x02, 0x03, 0x04, 0x05, 0x0B, 0x0C, 0x10, 0x11, 0x12, 0x13, 0x14, 0x20, 0x44 + 8 * f.val, 0x45 + 8 * f.val]

/-- The addresses that do not exist (R25). -/
def noAddress (a : Nat) : Prop :=
  a ∈ [0x06, 0x07, 0x0F, 0x15, 0x16, 0x17, 0x1A, 0x1B, 0x1E, 0x1F] ∨ (0x23 ≤ a ∧ a < 0x40) ∨
    (0x40 ≤ a ∧ a < 0x80 ∧ 6 ≤ a % 8) ∨ 0x80 ≤ a

/-- The registers, flags, cursor, Rice, CRC and configuration CSRs and the two streams: everything but the data
registers, the filter instances, the response port, SEQ and the error record. -/
def SameButFilters (s t : State) : Prop :=
  t = { s with d := t.d, filters := t.filters, responses := t.responses, seq := t.seq, errlog := t.errlog,
               lasterr := t.lasterr, lastcmd := t.lastcmd, lastseq := t.lastseq }

end Sys2Proof.Spec

open Sys2Proof Sys2Proof.Machine

/-! ### Encoding -/

/-- R91 to R96: no bit of an encoding is lost: decoding the word of a well-formed command gives it back. -/
def Obligations.DecodeOfEncode : Prop :=
  ∀ i : Instr, i.wellFormed = true → decode (encode i) = .command i

/-- R96, R99: a word that spells a command is that command's only word, and the command is well-formed. -/
def Obligations.EncodeOfDecode : Prop :=
  ∀ (w : Word) (i : Instr), decode w = .command i → encode i = w ∧ i.wellFormed = true

/-- R94: a word spells a row's command exactly when `w & mask = match`, and at most one row matches. -/
def Obligations.DecodeFollowsOpcodeTable : Prop :=
  (∀ (w : Word), ∀ r ∈ opcodeTable, (∃ i, decode w = .command i ∧ i.row = r) ↔ w &&& r.mask = r.bits) ∧
  (∀ (w : Word), ∀ r ∈ opcodeTable, ∀ r' ∈ opcodeTable,
    w &&& r.mask = r.bits → w &&& r'.mask = r'.bits → r = r')

/-- R102: the worked encodings, which the spec derives from R91 to R93. -/
def Obligations.WorkedEncodings : Prop :=
  decode 0x00000000#32 = .command .nop ∧
  decode 0x01100F96#32 = .command (.li 1 3990) ∧
  decode 0x0120B1E0#32 = .command (.li 2 (-20000)) ∧
  decode 0x02200001#32 = .command (.lih 2 1) ∧
  decode 0x05010008#32 = .command (.csrw 0x08 1) ∧
  decode 0x04900010#32 = .command (.csrr 9 0x10) ∧
  decode 0x10200020#32 = .command (.decUint 2 32) ∧
  decode 0x10440001#32 = .command (.decRice 4 1) ∧
  decode 0x10380003#32 = .command (.decXbits 3 3) ∧
  decode 0x13012000#32 = .command (.fillr 1 2) ∧
  decode 0x20430004#32 = .command (.nnd 4 3 4) ∧
  decode 0x30756800#32 = .command (.ms2lr 7 8 5 6) ∧
  decode 0x32078000#32 = .command (.emit 7 8) ∧
  decode 0x39900000#32 = .command (.crce 9)

/-- R98: what makes a word illegal, and that an illegal word changes no state except SEQ and the error record,
whatever the state. -/
def Obligations.IllegalWordsRefused : Prop :=
  ∀ (s : State) (w : Word) (rest : List HostEvent), s.inbox = .command w :: rest →
    (let op := field w 24 8
     (0x08 ≤ op ∧ op ≤ 0x0F) ∨ (0x16 ≤ op ∧ op ≤ 0x1F) ∨ (0x29 ≤ op ∧ op ≤ 0x2F) ∨ (0x34 ≤ op ∧ op ≤ 0x37) ∨
     0x3A ≤ op ∨ (s.cfg.hasCompress = false ∧ (op = 0x21 ∨ op = 0x23 ∨ op = 0x25)) ∨
     (op = 0x10 ∧ (field w 8 8 ≠ 0 ∨ field w 16 2 ≠ 0 ∨ field w 18 2 = 3)) ∨
     (∀ r ∈ opcodeTable, w &&& r.mask ≠ r.bits)) →
    step s = .next (Spec.errAfter { s with inbox := rest } 0x01#8 w)

/-! ### The step -/

/-- R13, R283: a step runs the command its word spells, exec of it in the state without the word; with no move of the
host the block is idle and holds all state (the idle step is the model's reading of R258 and R283, log 3). -/
def Obligations.StepRunsDecodedCommand : Prop :=
  (∀ (s : State) (w : Word) (rest : List HostEvent) (i : Instr), s.inbox = .command w :: rest →
    decode w = .command i → step s = exec i { s with inbox := rest }) ∧
  (∀ s : State, s.inbox = [] → step s = .next s)

/-- R47, R270: a reset puts every piece of the block's state to its reset value, has no response, and OPEN then fails
until the host has configured the block. What is outside the block stays: the parameters, the byte source, the streams
(R271; log 10). -/
def Obligations.ResetEventGivesResetValues : Prop :=
  ∀ (s : State) (rest : List HostEvent), s.inbox = .reset :: rest →
    ∃ t, step s = .next t ∧ Spec.AtReset t ∧ t.cfg = s.cfg ∧ t.inbox = rest ∧ t.responses = s.responses ∧
      t.out = s.out ∧ t.src = s.src ∧ t.srcLen = s.srcLen ∧ t.answers = s.answers ∧ t.reads = s.reads ∧
      (t.cfg.Legal → exec .openSession t = .next (Spec.errAfter t 0x09#8 0x06000000#32))

/-- R270, 93_implementation_defined.md U13: a reset inside a command leaves the reset state and no response; of the
bytes the command appends to the output stream some beginning may be there (the model's choice of the length, log 10). -/
def Obligations.ResetInsideCommand : Prop :=
  ∀ (s : State) (w : Word) (k : Nat) (rest : List HostEvent), s.inbox = .resetDuring w k :: rest →
    ∃ t, step s = .next t ∧ Spec.AtReset t ∧ t.cfg = s.cfg ∧ t.inbox = rest ∧ t.responses = s.responses ∧
      t.src = s.src ∧ t.srcLen = s.srcLen ∧
      (∀ u, runCommand w { s with inbox := rest } = .next u →
        ∃ bs, u.out = s.out ++ bs ∧ t.out = s.out ++ bs.take k)

/-! ### Responses and errors, for every command -/

/-- R230, R21: every command word gets exactly one response, its status is OK or one of the codes 0x01 to 0x0C, and it
adds 1 to SEQ; an error's value is 0 (R97). -/
def Obligations.OneResponsePerCommand : Prop :=
  ∀ (s t : State) (w : Word), runCommand w s = .next t →
    ∃ r : Response, t.responses = s.responses ++ [r] ∧ t.seq = s.seq + 1 ∧ r.status.toNat ≤ 0x0C ∧
      (r.status ≠ 0#8 → r.value = 0#32)

/-- R26, R236: an error sets its bit of ERRLOG and overwrites LASTERR, LASTCMD and LASTSEQ with its code, the command
word and SEQ before its increment; a command that completes with OK leaves the record, but that a CSRW to ERRLOG (0x01)
may clear ERRLOG bits. -/
def Obligations.ErrorRecordKept : Prop :=
  ∀ (s t : State) (w : Word) (r : Response), runCommand w s = .next t → t.responses = s.responses ++ [r] →
    (r.status ≠ 0#8 →
      t.errlogWord = s.errlogWord ||| (1#32 <<< r.status.toNat) ∧ t.lasterr = r.status ∧ t.lastcmd = w ∧
      t.lastseq = s.seq) ∧
    (r.status = 0#8 →
      t.lasterr = s.lasterr ∧ t.lastcmd = s.lastcmd ∧ t.lastseq = s.lastseq ∧
      (t.errlog = s.errlog ∨ ∃ ra, decode w = .command (.csrw 0x01 ra) ∧ t.errlogWord = s.errlogWord &&& ~~~ s.reg ra))

/-- R231: a hard error changes nothing but the error record and SEQ (and returns its response). IOError, 0x08, also
clears BVALID and has used one source read, and of SEEK keeps the flush. The soft error, 0x0C, is CRCE's, and writes its
destination and FERR. No error closes the session. -/
def Obligations.HardErrorsKeepState : Prop :=
  ∀ (s t : State) (w : Word) (r : Response), runCommand w s = .next t → t.responses = s.responses ++ [r] →
    r.status ≠ 0#8 →
    t.isOpen = s.isOpen ∧
    (r.status ≠ 0x08#8 → r.status ≠ 0x0C#8 → t = Spec.errAfter s r.status w) ∧
    (r.status = 0x08#8 →
      (decode w = .command .fill ∨ ∃ ra rb, decode w = .command (.fillr ra rb)) ∧
        t = Spec.errAfter { s with bvalid := false, answers := s.answers.tail, reads := s.reads + 1 } 0x08#8 w ∨
      (∃ ra rb, decode w = .command (.seek ra rb)) ∧
        t = Spec.errAfter { s with bvalid := false, answers := s.answers.tail, reads := s.reads + 1,
                                   filters := Spec.flushedAll s } 0x08#8 w) ∧
    (r.status = 0x0C#8 → ∃ rd, decode w = .command (.crce rd) ∧
      t = Spec.errAfter { s with d := s.d.set rd.val 0#32 rd.isLt, ferr := true } 0x0C#8 w)

/-- R251, R232, R240: while closed, exactly the commands of R232's row answer NotOpen, whatever their operands (the
compress commands where they exist); a command answers NotOpen at no other time. -/
def Obligations.NotOpenExactlyWhileClosed : Prop :=
  ∀ (i : Instr) (s : State),
    (i.needsOpen = true → s.isOpen = false → (i.isCompress = true → s.cfg.hasCompress = true) →
      exec i s = .next (Spec.errAfter s 0x03#8 (encode i))) ∧
    (∀ t r, exec i s = .next t → t.responses = s.responses ++ [r] → r.status = 0x03#8 →
      i.needsOpen = true ∧ s.isOpen = false)

/-- R243, R283: no error makes the block stop answering: every step of every state is answered, unless the byte source
never answers the source read of FILL, FILLR or SEEK. -/
def Obligations.StepsAnsweredUnlessSourceSilent : Prop :=
  ∀ s : State, (∃ t, step s = .next t) ∨
    (step s = .fault .sourceNeverAnswers ∧ s.nextAnswer = .never ∧
      ∃ w rest i, s.inbox = .command w :: rest ∧ decode w = .command i ∧ i.readsSource = true)

/-! ### Frames, for every command -/

/-- R20: a data register is changed only by a command that names it as destination, and not by its hard error. -/
def Obligations.RegistersChangeOnlyAsDestination : Prop :=
  ∀ (i : Instr) (s t : State) (r : Reg), exec i s = .next t →
    (r ∉ i.dests → t.reg r = s.reg r) ∧
    (∀ c : Response, t.responses = s.responses ++ [c] → c.status ≠ 0#8 → c.status ≠ 0x0C#8 → t.reg r = s.reg r)

/-- R60, R7: no command writes the byte source, its size, the parameters or the host's coming moves, and only FILL,
FILLR and SEEK read the source, once at most. -/
def Obligations.SourceReadOnly : Prop :=
  ∀ (i : Instr) (s t : State), exec i s = .next t →
    t.src = s.src ∧ (∀ a, t.src.read a = s.src.read a) ∧ t.srcLen = s.srcLen ∧ t.cfg = s.cfg ∧ t.inbox = s.inbox ∧
    (t.reads = s.reads ∧ t.answers = s.answers ∨
      i.readsSource = true ∧ t.reads = s.reads + 1 ∧ t.answers = s.answers.tail)

/-- R66: the output stream is append-only and only EMIT and SIL append; the CRC accumulator moves only with EMIT, CRCS
and OPEN (R45). -/
def Obligations.OutputAppendOnly : Prop :=
  ∀ (i : Instr) (s t : State), exec i s = .next t →
    (∃ bs, t.out = s.out ++ bs ∧ (bs ≠ [] → (∃ ra rb, i = .emit ra rb) ∨ i = .sil)) ∧
    (t.crcacc = s.crcacc ∨ (∃ ra rb, i = .emit ra rb) ∨ i = .crcs ∨ i = .openSession)

/-- R8, R24: while a session is open no command changes a configuration register. -/
def Obligations.ConfigurationImmutableWhileOpen : Prop :=
  ∀ (i : Instr) (s t : State), exec i s = .next t → s.isOpen = true →
    t.version = s.version ∧ t.channels = s.channels ∧ t.bitsps = s.bitsps ∧ t.lagsel = s.lagsel ∧
    t.msround = s.msround ∧
    ∀ f, (t.filter f).ftype = (s.filter f).ftype ∧ (t.filter f).forder = (s.filter f).forder ∧
      (t.filter f).fshift = (s.filter f).fshift ∧ (t.filter f).fmul = (s.filter f).fmul

/-- R251: the session states' transitions: Closed to Initialized by OPEN; to Decoding by FILLR or SEEK; from Decoding
to Initialized by an IOError; to Closed by CLOSE; any other command leaves the session state. -/
def Obligations.SessionTransitions : Prop :=
  ∀ (i : Instr) (s t : State), exec i s = .next t → (s.bvalid = true → s.isOpen = true) →
    t.session = s.session ∨
    (i = .openSession ∧ s.session = .closed ∧ t.session = .initialized) ∨
    (i = .closeSession ∧ t.session = .closed) ∨
    ((∃ ra rb, i = .fillr ra rb ∨ i = .seek ra rb) ∧ s.session = .initialized ∧ t.session = .decoding) ∨
    (i.readsSource = true ∧ s.session = .decoding ∧ t.session = .initialized ∧ t.lasterr = 0x08#8)

/-- R22, R196: FERR is set only by a mismatching CRCE and cleared only by CRCS and OPEN. -/
def Obligations.FerrChangesOnlyByFrameCommands : Prop :=
  ∀ (i : Instr) (s t : State), exec i s = .next t → t.ferr ≠ s.ferr →
    (t.ferr = true ∧ ∃ rd, i = .crce rd ∧ Spec.crcFinal s.cfg s.crcacc ≠ s.crcstored) ∨
    (t.ferr = false ∧ (i = .crcs ∨ i = .openSession))

/-- R140, R22, R24, R33, R66: the filter commands touch no cursor, Rice or CRC state, no flag, no configuration CSR, the
instances' FTYPE, FORDER, FSHIFT and FMUL among them, and no stream. -/
def Obligations.FilterCommandsKeepOtherUnits : Prop :=
  ∀ (i : Instr) (s t : State), i.stepsFilter = true → exec i s = .next t → Spec.SameButFilters s t ∧
    ∀ f, (t.filter f).ftype = (s.filter f).ftype ∧ (t.filter f).forder = (s.filter f).forder ∧
      (t.filter f).fshift = (s.filter f).fshift ∧ (t.filter f).fmul = (s.filter f).fmul

/-- R128: while a session is open, no command lowers `furthest` in a state of declared ranges, and `srcpos` never
passes it. -/
def Obligations.FurthestOnlyRises : Prop :=
  ∀ (i : Instr) (s t : State), s.Inv → s.isOpen = true → exec i s = .next t →
    s.furthest.toNat ≤ t.furthest.toNat ∧ t.srcpos.toNat ≤ t.furthest.toNat

/-! ### The invariant -/

/-- The reset state of every hardware with legal parameters is within the declared ranges. -/
def Obligations.InvAtReset : Prop := ∀ p : Params, p.Legal → (State.resetOf p).Inv

/-- 93_implementation_defined.md U8: no step leaves the declared ranges: whatever the host sends or resets, and
whatever the byte source answers. -/
def Obligations.InvKeptByEveryStep : Prop := ∀ s t : State, s.Inv → step s = .next t → t.Inv

/-! ### Register, CSR and session commands -/

/-- R210, R213, R181: NOP changes nothing but SEQ; MOV and MONO copy; their encodings. -/
def Obligations.NopMovMono : Prop :=
  ∀ (s : State) (rd ra : Reg),
    decode 0x00000000#32 = .command .nop ∧
    decode (Spec.wordR 0x03#8 rd ra 0 0 0#8) = .command (.mov rd ra) ∧
    decode (Spec.wordR 0x31#8 rd ra 0 0 0#8) = .command (.mono rd ra) ∧
    exec .nop s = .next (Spec.okAfter s 0#32) ∧
    exec (.mov rd ra) s = .next (Spec.okReg s rd (s.reg ra)) ∧
    exec (.mono rd ra) s = .next (Spec.okReg s rd (s.reg ra))

/-- R211, R212: LI writes the signed immediate, LIH replaces the upper half; LI then LIH builds any constant; their
encodings, a non-zero bit of [19:16] being no command. -/
def Obligations.LoadImmediates : Prop :=
  ∀ (s : State) (rd : Reg),
    (∀ x : BitVec 16, decode (Spec.wordI 0x01#8 rd x) = .command (.li rd x.toInt) ∧
      decode (Spec.wordI 0x02#8 rd x) = .command (.lih rd x.toNat)) ∧
    (∀ w : Word, (field w 24 8 = 0x01 ∨ field w 24 8 = 0x02) → field w 16 4 ≠ 0 → ∀ i, decode w ≠ .command i) ∧
    (∀ imm : Int, -32768 ≤ imm → imm ≤ 32767 →
      ∃ v : Word, exec (.li rd imm) s = .next (Spec.okReg s rd v) ∧ v.toInt = imm) ∧
    (∀ imm : Nat, imm < 65536 →
      ∃ v : Word, exec (.lih rd imm) s = .next (Spec.okReg s rd v) ∧
        v.toNat / 65536 = imm ∧ v.toNat % 65536 = (s.reg rd).toNat % 65536) ∧
    (∀ c : Word, ∃ t u, exec (.li rd (c.setWidth 16).toInt) s = .next t ∧
      exec (.lih rd (c.toNat / 65536)) t = .next u ∧ u.reg rd = c)

/-- R126: ZZ maps an odd code to `(v + 1) / 2` and an even one to `−(v / 2)`, modulo 2^32, in any session state; the map
is a bijection on 32-bit patterns: two codes it maps alike are equal, and every pattern is a result; its encoding. The map
is the spec's own choice, from general knowledge (93_implementation_defined.md G2, log 19). -/
def Obligations.ZigzagBijection : Prop :=
  ∀ (s : State) (rd ra : Reg),
    decode (Spec.wordR 0x15#8 rd ra 0 0 0#8) = .command (.zz rd ra) ∧
    (∃ v : Word, exec (.zz rd ra) s = .next (Spec.okReg s rd v) ∧
      (∀ m, (s.reg ra).toNat = 2 * m + 1 → v = BitVec.ofNat 32 (m + 1)) ∧
      (∀ m, (s.reg ra).toNat = 2 * m → v = -BitVec.ofNat 32 m)) ∧
    (∀ a b t u, exec (.zz rd ra) (s.setReg ra a) = .next t → exec (.zz rd ra) (s.setReg ra b) = .next u →
      t.reg rd = u.reg rd → a = b) ∧
    (∀ v : Word, ∃ a t, exec (.zz rd ra) (s.setReg ra a) = .next t ∧ t.reg rd = v)

/-- R163, R141: SAT16 clamps the signed register to −32768 .. 32767, in any session state; its encoding. -/
def Obligations.SaturationResult : Prop :=
  ∀ (s : State) (rd ra : Reg),
    decode (Spec.wordR 0x28#8 rd ra 0 0 0#8) = .command (.sat16 rd ra) ∧
    ∃ v : Word, exec (.sat16 rd ra) s = .next (Spec.okReg s rd v) ∧
    v.toInt = max (-32768) (min (s.reg ra).toInt 32767)

/-- R180: MS2LR gives `R = X − h`, `L = R + Y` modulo 2^32 into `rc` and `rd`, both sources read first; with `rd = rc`
it is IllegalOperand; its encoding. The formula is the spec's own choice (93_implementation_defined.md G6, log 19). -/
def Obligations.MidSideResult : Prop :=
  ∀ (s : State) (rd rc ra rb : Reg),
    decode (Spec.wordR 0x30#8 rd ra rb rc 0#8) = .command (.ms2lr rd rc ra rb) ∧
    (rd = rc → exec (.ms2lr rd rc ra rb) s = .next (Spec.errAfter s 0x02#8 (encode (.ms2lr rd rc ra rb)))) ∧
    (rd ≠ rc →
      let y := (s.reg rb).toInt
      let h := if s.msround = 1 then y / 2 else y.tdiv 2
      let right := BitVec.ofInt 32 ((s.reg ra).toInt - h)
      let left := BitVec.ofInt 32 ((s.reg ra).toInt - h + y)
      exec (.ms2lr rd rc ra rb) s = .next (Spec.okAfter
        { s with d := (s.d.set rd.val left rd.isLt).set rc.val right rc.isLt } left))

/-- R182: for both roundings the transform is invertible: from `Y = L − R` and `X = R + h(Y)` MS2LR gives L and R
back, for all 32-bit L and R (the formula: G6, log 19). -/
def Obligations.MidSideInverts : Prop :=
  ∀ (s : State) (rd rc ra rb : Reg) (L R : Word), rd ≠ rc →
    s.reg rb = L - R →
    s.reg ra = R + BitVec.ofInt 32 (if s.msround = 1 then (L - R).toInt / 2 else (L - R).toInt.tdiv 2) →
    ∃ t, exec (.ms2lr rd rc ra rb) s = .next t ∧ t.reg rd = L ∧ t.reg rc = R

/-- R214, R25: what CSRR reads at each address, and IllegalOperand at every address that does not exist; its
encoding. -/
def Obligations.CsrReads : Prop :=
  ∀ (s : State) (rd : Reg),
    (∀ x : Byte, decode (Spec.wordR 0x04#8 rd 0 0 0 x) = .command (.csrr rd x.toNat)) ∧
    (∀ (a : Nat) (v : Word), (a, v) ∈ ([
        (0x00, (BitVec.ofBool s.ferr ++ BitVec.ofBool s.bvalid ++ BitVec.ofBool s.isOpen).setWidth 32),
        (0x01, (s.errlog ++ 0#1).setWidth 32), (0x02, s.lasterr.setWidth 32), (0x03, s.lastcmd),
        (0x04, s.lastseq), (0x05, s.seq), (0x08, s.version.setWidth 32), (0x09, s.channels.setWidth 32),
        (0x0A, s.bitsps.setWidth 32), (0x0B, BitVec.ofNat 32 (s.bitsps.toNat / 8)),
        (0x0C, BitVec.ofNat 32 (s.bitsps.toNat / 8 * s.channels.toNat)), (0x0D, s.lagsel.setWidth 32),
        (0x0E, s.msround.setWidth 32), (0x10, s.bitpos), (0x11, BitVec.ofNat 32 (8 * s.win.length)),
        (0x12, s.srcpos), (0x13, s.furthest), (0x14, s.srcsize), (0x18, (s.rk.get 0).setWidth 32),
        (0x19, (s.rk.get 1).setWidth 32), (0x1C, s.rksum.get 0), (0x1D, s.rksum.get 1), (0x20, s.crcacc),
        (0x21, s.crcstored), (0x22, s.silcnt)] : List (Nat × Word)) →
      exec (.csrr rd a) s = .next (Spec.okReg s rd v)) ∧
    (∀ (f : Fin 8) (k : Nat) (v : Word), (k, v) ∈ ([
        (0, (s.filter f).ftype.setWidth 32), (1, (s.filter f).forder.setWidth 32),
        (2, (s.filter f).fshift.setWidth 32), (3, (s.filter f).fmul), (4, (s.filter f).avg),
        (5, (s.filter f).last)] : List (Nat × Word)) →
      exec (.csrr rd (0x40 + 8 * f.val + k)) s = .next (Spec.okReg s rd v)) ∧
    (∀ a : Nat, Spec.noAddress a →
      exec (.csrr rd a) s = .next (Spec.errAfter s 0x02#8 (encode (.csrr rd a))))

/-- R215, R24, R25: CSRW to a read-only address or one that does not exist is IllegalOperand in every session state, to
a configuration address NotClosed while open; ERRLOG clears the written ones; a write to a configuration address while
closed, or to an RW address at any time, completes, and a CSRR then reads the written value cut to the register's width;
its encoding. -/
def Obligations.CsrWrites : Prop :=
  ∀ (s : State) (ra : Reg),
    (∀ x : Byte, decode (Spec.wordR 0x05#8 0 ra 0 0 x) = .command (.csrw x.toNat ra)) ∧
    (∀ (f : Fin 8) (a : Nat), (a ∈ Spec.roAddresses f ∨ Spec.noAddress a) →
      exec (.csrw a ra) s = .next (Spec.errAfter s 0x02#8 (encode (.csrw a ra)))) ∧
    (∀ (f : Fin 8) (a width : Nat), (a, width) ∈ Spec.cfgAddresses f → s.isOpen = true →
      exec (.csrw a ra) s = .next (Spec.errAfter s 0x04#8 (encode (.csrw a ra)))) ∧
    (∃ t, exec (.csrw 0x01 ra) s = .next (Spec.okAfter t 0#32) ∧ ∀ rd : Reg,
      exec (.csrr rd 0x01) (Spec.okAfter t 0#32) =
        .next (Spec.okReg (Spec.okAfter t 0#32) rd ((s.errlog ++ 0#1).setWidth 32 &&& ~~~ s.reg ra))) ∧
    (∀ (f : Fin 8) (a width : Nat),
      ((a, width) ∈ Spec.cfgAddresses f ∧ s.isOpen = false ∨ (a, width) ∈ Spec.rwAddresses) →
      ∃ t, exec (.csrw a ra) s = .next (Spec.okAfter t 0#32) ∧ ∀ rd : Reg,
        exec (.csrr rd a) (Spec.okAfter t 0#32) =
          .next (Spec.okReg (Spec.okAfter t 0#32) rd (BitVec.ofNat 32 ((s.reg ra).toNat % 2 ^ width))))

/-- R215: what a completing CSRW leaves: the registers, the flags, the cursor, the filter state, every other CSR but the
two computed from BITSPS and CHANNELS, and the streams. -/
def Obligations.CsrWriteFrame : Prop :=
  ∀ (s t : State) (a : Nat) (c : Csr) (ra : Reg), csrAt a = some c → exec (.csrw a ra) s = .next t →
    t.responses = s.responses ++ [⟨0#8, 0#32⟩] →
    t.seq = s.seq + 1 ∧ t.d = s.d ∧ t.out = s.out ∧ t.win = s.win ∧
    (∀ f, (t.filter f).weights = (s.filter f).weights ∧ (t.filter f).hist = (s.filter f).hist ∧
      (t.filter f).delta = (s.filter f).delta) ∧
    (∀ c', c' ≠ c → c' ≠ .seq → c' ≠ .bytesps → c' ≠ .blockalign → t.csrValue c' = s.csrValue c')

/-- R216: OPEN begins a session when the block is closed and the configuration is legal. -/
def Obligations.OpenBeginsSession : Prop :=
  ∀ s : State, s.isOpen = false → Spec.headerLegal s → (∀ f, Spec.filterLegal s.cfg (s.filter f)) →
    exec .openSession s = .next (Spec.okAfter { s with
      isOpen := true, bvalid := false, ferr := false, win := [], bitpos := 0, srcpos := 0, furthest := 0,
      srcsize := BitVec.ofNat 32 s.srcLen,
      rk := Vector.replicate 2 s.cfg.riceKReset, rksum := Vector.replicate 2 s.cfg.riceKsumReset,
      crcacc := s.cfg.crcInit, crcstored := 0, silcnt := 0, filters := Spec.flushedAll s } 0#32)

/-- R216, R234: OPEN's errors and their order: NotClosed, then InitializationError, then ConfigError; its encoding. -/
def Obligations.OpenRefusals : Prop :=
  decode 0x06000000#32 = .command .openSession ∧
  ∀ s : State,
    (s.isOpen = true → exec .openSession s = .next (Spec.errAfter s 0x04#8 0x06000000#32)) ∧
    (s.isOpen = false → ¬ Spec.headerLegal s → exec .openSession s = .next (Spec.errAfter s 0x09#8 0x06000000#32)) ∧
    (s.isOpen = false → Spec.headerLegal s → (∃ f, ¬ Spec.filterLegal s.cfg (s.filter f)) →
      exec .openSession s = .next (Spec.errAfter s 0x0A#8 0x06000000#32))

/-- R217: CLOSE clears OPEN and BVALID and keeps everything else, which stays readable: a CSRR then reads every CSR but
STATUS and SEQ as before, and in STATUS FERR as before; a CSRW to a configuration address then completes; its
encoding. -/
def Obligations.CloseKeepsEverythingElse : Prop :=
  decode 0x07000000#32 = .command .closeSession ∧
  ∀ s : State,
    (s.isOpen = true →
      let t := Spec.okAfter { s with isOpen := false, bvalid := false } 0#32
      exec .closeSession s = .next t ∧
      (∀ (rd : Reg) (a : Nat) (c : Csr), csrAt a = some c → c ≠ .status → c ≠ .seq →
        exec (.csrr rd a) t = .next (Spec.okReg t rd (s.csrValue c))) ∧
      (∀ rd : Reg, exec (.csrr rd 0x00) t = .next (Spec.okReg t rd ((BitVec.ofBool s.ferr ++ 0#2).setWidth 32))) ∧
      (∀ (f : Fin 8) (a width : Nat) (ra : Reg), (a, width) ∈ Spec.cfgAddresses f →
        ∃ u, exec (.csrw a ra) t = .next u ∧ u.responses = t.responses ++ [⟨0#8, 0#32⟩])) ∧
    (s.isOpen = false → exec .closeSession s = .next (Spec.errAfter s 0x03#8 0x07000000#32))

/-! ### The bit reader -/

/-- R112, R113, R63: DEC UINT and DEC XBITS of n bits read the field MSB-first and consume it when n ≤ 32, the cursor is
valid and n bits are held; else the errors in their order, IllegalOperand, CursorInvalid, BitUnderrun (R110); their
encodings. -/
def Obligations.FixedWidthDecode : Prop :=
  (∀ (rd : Reg) (x : Byte), decode (Spec.wordD rd 0#2 x) = .command (.decUint rd x.toNat) ∧
    decode (Spec.wordD rd 2#2 x) = .command (.decXbits rd x.toNat)) ∧
  ∀ (s : State) (rd : Reg) (n : Nat) (i : Instr), i = .decUint rd n ∨ i = .decXbits rd n → s.isOpen = true →
    let v := Spec.bits s.cfg.streamWordBytes s.win s.bitpos.toNat n
    (n ≤ 32 → s.bvalid = true → n ≤ 8 * s.win.length - s.bitpos.toNat →
      v < 2 ^ n ∧ exec i s =
        .next (Spec.okReg { s with bitpos := s.bitpos + BitVec.ofNat 32 n } rd (BitVec.ofNat 32 v))) ∧
    (32 < n → exec i s = .next (Spec.errAfter s 0x02#8 (encode i))) ∧
    (n ≤ 32 → s.bvalid = false → exec i s = .next (Spec.errAfter s 0x05#8 (encode i))) ∧
    (n ≤ 32 → s.bvalid = true → 8 * s.win.length - s.bitpos.toNat < n →
      exec i s = .next (Spec.errAfter s 0x06#8 (encode i)))

/-- R114, R120: a Rice code of quotient q (q ones, a 0) and k remainder bits that lies in the window and whose value
`q·2^k + r` fits 32 bits is decoded, its q + 1 + k bits are consumed, and the slot adapts by RICE_ADAPT. -/
def Obligations.RiceDecode : Prop :=
  ∀ (s : State) (rd : Reg) (slot : Fin 2) (q : Nat), s.isOpen = true → s.bvalid = true →
    let W := s.cfg.streamWordBytes
    let p := s.bitpos.toNat
    let k := (s.rk.get slot).toNat
    let v := q * 2 ^ k + Spec.bits W s.win (p + q + 1) k
    let a := riceAdapt s.cfg.riceAdapt (s.rk.get slot) (s.rksum.get slot) (BitVec.ofNat 32 v)
    (∀ j, j < q → Spec.bit W s.win (p + j) = 1) → Spec.bit W s.win (p + q) = 0 →
    p + q + 1 + k ≤ 8 * s.win.length →
    (v < 2 ^ 32 → exec (.decRice rd slot.val) s = .next (Spec.okReg
      { s with bitpos := BitVec.ofNat 32 (p + q + 1 + k), rk := s.rk.set slot.val a.1 slot.isLt,
               rksum := s.rksum.set slot.val a.2 slot.isLt } rd (BitVec.ofNat 32 v))) ∧
    (2 ^ 32 ≤ v → exec (.decRice rd slot.val) s =
      .next (Spec.errAfter s 0x07#8 (encode (.decRice rd slot.val))))

/-- R114, R110: the other errors of DEC RICE: the slot, the cursor, and a window that ends before the 0 or before the
k remainder bits (BitUnderrun, whatever the length of the run of ones). -/
def Obligations.RiceDecodeErrors : Prop :=
  ∀ (s : State) (rd : Reg) (slot : Nat), s.isOpen = true →
    (2 ≤ slot → exec (.decRice rd slot) s = .next (Spec.errAfter s 0x02#8 (encode (.decRice rd slot)))) ∧
    (slot < 2 → s.bvalid = false →
      exec (.decRice rd slot) s = .next (Spec.errAfter s 0x05#8 (encode (.decRice rd slot)))) ∧
    (slot < 2 → s.bvalid = true →
      (∀ j, s.bitpos.toNat + j < 8 * s.win.length → Spec.bit s.cfg.streamWordBytes s.win (s.bitpos.toNat + j) = 1) →
      exec (.decRice rd slot) s = .next (Spec.errAfter s 0x06#8 (encode (.decRice rd slot)))) ∧
    (∀ (h : slot < 2) (q : Nat), s.bvalid = true →
      (∀ j, j < q → Spec.bit s.cfg.streamWordBytes s.win (s.bitpos.toNat + j) = 1) →
      Spec.bit s.cfg.streamWordBytes s.win (s.bitpos.toNat + q) = 0 →
      s.bitpos.toNat + q + 1 ≤ 8 * s.win.length →
      8 * s.win.length < s.bitpos.toNat + q + 1 + (s.rk.get ⟨slot, h⟩).toNat →
      exec (.decRice rd slot) s = .next (Spec.errAfter s 0x06#8 (encode (.decRice rd slot))))

/-- R121: the default RICE_ADAPT, on exact integers; k changes by at most one, never leaves 0 .. 31 and above 26 only
falls. The function is the spec's own default, from general knowledge (93_implementation_defined.md G1, log 19). -/
def Obligations.DefaultRiceAdaptation : Prop :=
  ∀ (k : BitVec 5) (ksum v : Word),
    let r := riceAdapt .standard k ksum v
    let sum : Int := ((ksum.toNat : Int) + v.toNat - ((ksum.toNat : Int) + 8) / 16) % 2 ^ 32
    let lo : Int := if k.toNat = 0 then 0 else 2 ^ (k.toNat + 4)
    (r.2.toNat : Int) = sum ∧
    (r.1.toNat : Int) = (if sum < lo then (k.toNat : Int) - 1
      else if 2 ^ (k.toNat + 5) ≤ sum ∧ k.toNat < 26 then k.toNat + 1 else k.toNat) ∧
    (26 < k.toNat → r.1.toNat ≤ k.toNat)

/-- R122: ALIGN moves `bitpos` to the next multiple of 8 and never beyond `bitsheld`; a second ALIGN moves nothing; its
encoding. -/
def Obligations.AlignToByte : Prop :=
  decode 0x11000000#32 = .command .align ∧
  ∀ s : State, s.isOpen = true →
    (s.bvalid = false → exec .align s = .next (Spec.errAfter s 0x05#8 0x11000000#32)) ∧
    (s.bvalid = true → s.bitpos.toNat ≤ 8 * s.win.length → 8 * s.win.length < 2 ^ 32 →
      ∃ b : Word, exec .align s = .next (Spec.okAfter { s with bitpos := b } 0#32) ∧
        b.toNat % 8 = 0 ∧ s.bitpos.toNat ≤ b.toNat ∧ b.toNat < s.bitpos.toNat + 8 ∧ b.toNat ≤ 8 * s.win.length ∧
        exec .align { s with bitpos := b } = .next (Spec.okAfter { s with bitpos := b } 0#32))

/-- R123: FILL in a state of declared ranges whose byte source delivers: it drops the wholly consumed words, reads n
bytes after `srcpos` (none, and no source read, when n = 0), and completes. -/
def Obligations.FillRefillsWindow : Prop :=
  ∀ s : State, s.Inv → s.isOpen = true → s.bvalid = true →
    let W := s.cfg.streamWordBytes
    let drop := W * (s.bitpos.toNat / (8 * W))
    let n := W * (min (s.cfg.bufBytes - (s.win.length - drop)) (s.srcsize.toNat - s.srcpos.toNat) / W)
    let t := { s with
      win := s.win.drop drop ++ Spec.sourceBytes s.src s.srcpos.toNat n
      bitpos := BitVec.ofNat 32 (s.bitpos.toNat - 8 * drop)
      srcpos := BitVec.ofNat 32 (s.srcpos.toNat + n)
      furthest := BitVec.ofNat 32 (max s.furthest.toNat (s.srcpos.toNat + n)) }
    (n = 0 → exec .fill s = .next (Spec.okAfter t 0#32)) ∧
    (0 < n → s.nextAnswer = .ok → exec .fill s =
      .next (Spec.okAfter { t with answers := s.answers.tail, reads := s.reads + 1 } 0#32))

/-- R123, R127: after a FILL that responds OK the unread bits are the same, and either the window is full up to word
granularity or the source has fewer than W unread bytes left. -/
def Obligations.FillKeepsUnreadBits : Prop :=
  ∀ s t : State, s.Inv → s.bvalid = true → exec .fill s = .next t →
    t.responses = s.responses ++ [⟨0#8, 0#32⟩] →
    let W := s.cfg.streamWordBytes
    8 * s.win.length - s.bitpos.toNat ≤ 8 * t.win.length - t.bitpos.toNat ∧
    (∀ j, j < 8 * s.win.length - s.bitpos.toNat →
      Spec.bit W t.win (t.bitpos.toNat + j) = Spec.bit W s.win (s.bitpos.toNat + j)) ∧
    (s.cfg.bufBytes < t.win.length + W ∧ 8 * (s.cfg.bufBytes - 2 * W) < 8 * t.win.length - t.bitpos.toNat ∨
      t.srcsize.toNat - t.srcpos.toNat < W)

/-- R233, R123 to R125: a source read that fails is IOError: BVALID is cleared, the window and the positions are kept,
the session stays open, and SEEK's flush has happened. -/
def Obligations.FailedReadIsIoError : Prop :=
  ∀ (s : State) (ra rb : Reg), s.isOpen = true → s.nextAnswer = .fail →
    let lost := { s with bvalid := false, answers := s.answers.tail, reads := s.reads + 1 }
    let W := s.cfg.streamWordBytes
    let drop := W * (s.bitpos.toNat / (8 * W))
    (s.bvalid = true →
      0 < W * (min (s.cfg.bufBytes - (s.win.length - drop)) (s.srcsize.toNat - s.srcpos.toNat) / W) →
      exec .fill s = .next (Spec.errAfter lost 0x08#8 0x12000000#32)) ∧
    (Spec.rangeOk s (s.reg ra).toNat (s.reg rb).toNat →
      exec (.fillr ra rb) s = .next (Spec.errAfter lost 0x08#8 (encode (.fillr ra rb))) ∧
      exec (.seek ra rb) s =
        .next (Spec.errAfter { lost with filters := Spec.flushedAll s } 0x08#8 (encode (.seek ra rb))))

/-- R124: FILLR and SEEK with operands in range and a byte source that delivers; SEEK also flushes every filter
instance (R125). -/
def Obligations.RefillAtPosition : Prop :=
  ∀ (s : State) (ra rb : Reg), s.Inv → s.isOpen = true → s.nextAnswer = .ok →
    Spec.rangeOk s (s.reg ra).toNat (s.reg rb).toNat →
    exec (.fillr ra rb) s = .next (Spec.okAfter (Spec.refilled s (s.reg ra).toNat (s.reg rb).toNat) 0#32) ∧
    exec (.seek ra rb) s = .next (Spec.okAfter
      { Spec.refilled s (s.reg ra).toNat (s.reg rb).toNat with filters := Spec.flushedAll s } 0#32)

/-- R124, R125, R110: FILLR and SEEK with a position beyond the source or a bit index outside the window to be read are
IllegalOperand, and flush nothing; FILL without a valid cursor is CursorInvalid. -/
def Obligations.RefillOperandErrors : Prop :=
  ∀ (s : State) (ra rb : Reg), s.isOpen = true →
    (¬ Spec.rangeOk s (s.reg ra).toNat (s.reg rb).toNat →
      exec (.fillr ra rb) s = .next (Spec.errAfter s 0x02#8 (encode (.fillr ra rb))) ∧
      exec (.seek ra rb) s = .next (Spec.errAfter s 0x02#8 (encode (.seek ra rb)))) ∧
    (s.bvalid = false → exec .fill s = .next (Spec.errAfter s 0x05#8 0x12000000#32))

/-- R125: a SEEK that succeeds is indistinguishable from FLUSHA followed by FILLR with the same registers, but for the
count of commands and the extra response. -/
def Obligations.SeekIsFlushThenRefill : Prop :=
  ∀ (s t : State) (ra rb : Reg), exec (.seek ra rb) s = .next t → t.responses = s.responses ++ [⟨0#8, 0#32⟩] →
    ∃ u v, exec .flusha s = .next u ∧ exec (.fillr ra rb) u = .next v ∧
      v = { t with seq := t.seq + 1, responses := t.responses ++ [⟨0#8, 0#32⟩] }

/-! ### The filter -/

/-- R149, R142 to R148: one NND step of an open session's order-N instance. The 16-bit widths, the 32-bit accumulator and
the average's rounding are the spec's own choices, from general knowledge (93_implementation_defined.md G4, G8, log 19). -/
def Obligations.NndStep : Prop :=
  ∀ (s : State) (rd ra : Reg) (f : Fin 8), s.isOpen = true → (s.filter f).ftype = 1 → (s.filter f).Sized →
    16 ≤ Spec.N (s.filter f) → (s.filter f).avg.toNat < 2 ^ 31 →
    let e := (s.reg ra).toInt
    let out := BitVec.ofInt 32 (e + Spec.pred (s.filter f))
    let dir := match s.cfg.adaptDir with | .sample => out.toInt.sign | .residual => e.sign
    ∃ y, exec (.nnd rd ra f.val) s =
        .next (Spec.okReg { s with filters := s.filters.set f.val y f.isLt } rd out) ∧
      Spec.nnStep s.cfg s.lagsel (s.filter f) y dir out.toInt

/-- R150: one NNC step, where the compress commands exist (widths and rounding: G4, G8, log 19). -/
def Obligations.NncStep : Prop :=
  ∀ (s : State) (rd ra : Reg) (f : Fin 8), s.isOpen = true → s.cfg.hasCompress = true →
    (s.filter f).ftype = 1 → (s.filter f).Sized → 16 ≤ Spec.N (s.filter f) → (s.filter f).avg.toNat < 2 ^ 31 →
    let x := (s.reg ra).toInt
    let out := BitVec.ofInt 32 (x - Spec.pred (s.filter f))
    let dir := match s.cfg.adaptDir with | .sample => x.sign | .residual => out.toInt.sign
    ∃ y, exec (.nnc rd ra f.val) s =
        .next (Spec.okReg { s with filters := s.filters.set f.val y f.isLt } rd out) ∧
      Spec.nnStep s.cfg s.lagsel (s.filter f) y dir x

/-- R146: the default BUCKET, tested top to bottom, and that every BUCKET gives 0 for 0 and at most 32767. The default is
the spec's own, from general knowledge (93_implementation_defined.md G3, log 19). -/
def Obligations.BucketValues : Prop :=
  ∀ a avg : Nat,
    (3 * avg < a → bucketOf .standard a avg = 32) ∧
    (a ≤ 3 * avg → 4 * avg / 3 < a → bucketOf .standard a avg = 16) ∧
    (a ≤ 3 * avg → a ≤ 4 * avg / 3 → 0 < a → bucketOf .standard a avg = 8) ∧
    (∀ c, bucketOf c 0 avg = 0 ∧ bucketOf c a avg ≤ 32767)

/-- R155, R156: one FOD and one FOC step of an open session's first-order instance. -/
def Obligations.FirstOrderSteps : Prop :=
  ∀ (s : State) (rd ra : Reg) (f : Fin 8), s.isOpen = true → (s.filter f).ftype = 2 →
    let x := s.filter f
    let v := (s.reg ra).toInt
    let t := Spec.s32 (x.last.toInt * x.fmul.toInt) / 2 ^ x.fshift.toNat
    let decoded := BitVec.ofInt 32 (v + t)
    exec (.fod rd ra f.val) s = .next (Spec.okReg
      { s with filters := s.filters.set f.val { x with last := decoded } f.isLt } rd decoded) ∧
    (s.cfg.hasCompress = true → exec (.foc rd ra f.val) s = .next (Spec.okReg
      { s with filters := s.filters.set f.val { x with last := s.reg ra } f.isLt } rd (BitVec.ofInt 32 (v - t))))

/-- R140, R232: the errors of the stage commands in an open session: the instance number, then its kind; of NND and FOD
on every hardware, of NNC and FOC where the compress commands exist. -/
def Obligations.StageCommandErrors : Prop :=
  ∀ (s : State) (rd ra : Reg) (f : Nat) (i : Instr) (kind : Nat), s.isOpen = true →
    (i = .nnd rd ra f ∧ kind = 1 ∨ i = .fod rd ra f ∧ kind = 2 ∨
      s.cfg.hasCompress = true ∧ (i = .nnc rd ra f ∧ kind = 1 ∨ i = .foc rd ra f ∧ kind = 2)) →
    (8 ≤ f → exec i s = .next (Spec.errAfter s 0x02#8 (encode i))) ∧
    (∀ h : f < 8, (s.filter ⟨f, h⟩).ftype.toNat ≠ kind → exec i s = .next (Spec.errAfter s 0x0B#8 (encode i)))

/-- R159, R160: CASD runs the four instances of its channel in ascending slot order, CASC in descending order, each
enabled one stepping on what the one before gave; the other channel's instances are kept; a channel not below CHANNELS
is IllegalOperand. -/
def Obligations.CascadeResult : Prop :=
  ∀ (s : State) (rd ra : Reg) (ch : Fin 2), s.isOpen = true →
    let f (t : Nat) (h : t < 4) : Fin 8 := ⟨4 * ch.val + t, by omega⟩
    let x0 := s.filter (f 0 (by omega)); let x1 := s.filter (f 1 (by omega))
    let x2 := s.filter (f 2 (by omega)); let x3 := s.filter (f 3 (by omega))
    let a0 := Spec.stage false s x0 (s.reg ra); let a1 := Spec.stage false s x1 a0.1
    let a2 := Spec.stage false s x2 a1.1; let a3 := Spec.stage false s x3 a2.1
    let b3 := Spec.stage true s x3 (s.reg ra); let b2 := Spec.stage true s x2 b3.1
    let b1 := Spec.stage true s x1 b2.1; let b0 := Spec.stage true s x0 b1.1
    let put (y0 y1 y2 y3 : Filter) : Vector Filter 8 :=
      (((s.filters.set (4 * ch.val) y0 (by omega)).set (4 * ch.val + 1) y1 (by omega)).set
        (4 * ch.val + 2) y2 (by omega)).set (4 * ch.val + 3) y3 (by omega)
    (ch.val < s.channels.toNat →
      exec (.casd rd ra ch.val) s = .next (Spec.okReg { s with filters := put a0.2 a1.2 a2.2 a3.2 } rd a3.1) ∧
      (s.cfg.hasCompress = true → exec (.casc rd ra ch.val) s =
        .next (Spec.okReg { s with filters := put b0.2 b1.2 b2.2 b3.2 } rd b0.1))) ∧
    (∀ n : Nat, s.channels.toNat ≤ n →
      exec (.casd rd ra n) s = .next (Spec.errAfter s 0x02#8 (encode (.casd rd ra n))) ∧
      (s.cfg.hasCompress = true →
        exec (.casc rd ra n) s = .next (Spec.errAfter s 0x02#8 (encode (.casc rd ra n)))))

/-- R164 P1: the round trip of a stage: instances a and b of equal configuration and state; NNC (or FOC) on a maps x to
r, then NND (or FOD) on b maps r back to x, and a and b are again equal. For every 32-bit x, every configuration. -/
def Obligations.StageRoundTrip : Prop :=
  ∀ (s : State) (rd rd' ra : Reg) (a b : Fin 8), a ≠ b → s.isOpen = true → s.cfg.hasCompress = true →
    s.filter a = s.filter b →
    ((s.filter a).ftype = 1 → ∃ t u, exec (.nnc rd ra a.val) s = .next t ∧ exec (.nnd rd' rd b.val) t = .next u ∧
      u.reg rd' = s.reg ra ∧ u.filter a = u.filter b) ∧
    ((s.filter a).ftype = 2 → ∃ t u, exec (.foc rd ra a.val) s = .next t ∧ exec (.fod rd' rd b.val) t = .next u ∧
      u.reg rd' = s.reg ra ∧ u.filter a = u.filter b)

/-- R164 P1: the round trip of a whole channel: CASC on channel 0, then CASD on channel 1 whose four instances were
equal, gives the value back and leaves the channels equal. -/
def Obligations.CascadeRoundTrip : Prop :=
  ∀ (s : State) (rd rd' ra : Reg), s.isOpen = true → s.cfg.hasCompress = true → 2 ≤ s.channels.toNat →
    (∀ (t : Nat) (h : t < 4), s.filter ⟨t, by omega⟩ = s.filter ⟨4 + t, by omega⟩) →
    ∃ t u, exec (.casc rd ra 0) s = .next t ∧ exec (.casd rd' rd 1) t = .next u ∧ u.reg rd' = s.reg ra ∧
      ∀ (k : Nat) (h : k < 4), u.filter ⟨k, by omega⟩ = u.filter ⟨4 + k, by omega⟩

/-- R161, R162: FLUSHF zeroes one instance, whatever its type, and keeps its configuration; FLUSHA all eight; both
answer NotOpen while closed; their encodings. -/
def Obligations.FlushResult : Prop :=
  (∀ x : Byte, decode (Spec.wordR 0x26#8 0 0 0 0 x) = .command (.flushf x.toNat)) ∧
  decode 0x27000000#32 = .command .flusha ∧
  (∀ (s : State) (f : Nat), s.isOpen = false →
    exec (.flushf f) s = .next (Spec.errAfter s 0x03#8 (encode (.flushf f))) ∧
    exec .flusha s = .next (Spec.errAfter s 0x03#8 0x27000000#32)) ∧
  ∀ s : State, s.isOpen = true →
    (∀ f : Fin 8, exec (.flushf f.val) s = .next (Spec.okAfter
      { s with filters := s.filters.set f.val (Spec.flushed (s.filter f)) f.isLt } 0#32)) ∧
    (∀ n : Nat, 8 ≤ n → exec (.flushf n) s = .next (Spec.errAfter s 0x02#8 (encode (.flushf n)))) ∧
    exec .flusha s = .next (Spec.okAfter { s with filters := Spec.flushedAll s } 0#32)

/-- R164 P3: a flushed instance fed 0 outputs 0 and stays flushed, so it does so for ever. -/
def Obligations.FlushedStageStaysZero : Prop :=
  ∀ (s : State) (rd ra : Reg) (f : Fin 8), s.isOpen = true → s.reg ra = 0 → s.filter f = Spec.flushed (s.filter f) →
    ((s.filter f).ftype = 1 → 1 ≤ (s.filter f).fshift.toNat → exec (.nnd rd ra f.val) s = .next (Spec.okReg s rd 0)) ∧
    ((s.filter f).ftype = 2 → exec (.fod rd ra f.val) s = .next (Spec.okReg s rd 0))

/-- R164 P5: with ADAPT_DIR = SAMPLE a step whose sample is 0 leaves every weight, for instances of declared size: an
NND step, whose sample is its output, and an NNC step, whose sample is its input. -/
def Obligations.ZeroSampleKeepsWeights : Prop :=
  ∀ (s t : State) (rd ra : Reg) (f : Fin 8), s.cfg.adaptDir = .sample → (s.filter f).ftype = 1 →
    (s.filter f).Sized →
    (exec (.nnd rd ra f.val) s = .next t → t.responses = s.responses ++ [⟨0#8, 0#32⟩] →
      (t.filter f).weights = (s.filter f).weights) ∧
    (exec (.nnc rd ra f.val) s = .next t → s.reg ra = 0#32 → (t.filter f).weights = (s.filter f).weights)

/-! ### Output and CRC -/

/-- R190, R191, R194: EMIT appends the low bytes of the samples, left before right, exactly BLOCKALIGN of them, and
folds them into the CRC in that order; NotOpen while closed; its encoding. -/
def Obligations.EmitResult : Prop :=
  (∀ ra rb : Reg, decode (Spec.wordR 0x32#8 0 ra rb 0 0#8) = .command (.emit ra rb)) ∧
  (∀ (s : State) (ra rb : Reg), s.isOpen = false →
    exec (.emit ra rb) s = .next (Spec.errAfter s 0x03#8 (encode (.emit ra rb)))) ∧
  ∀ (s : State) (ra rb : Reg), s.isOpen = true → (s.channels = 1 ∨ s.channels = 2) →
    (s.bitsps = 8 ∨ s.bitsps = 16 ∨ s.bitsps = 24) →
    let pk := Spec.packed s.cfg.pcmBigEndian (s.bitsps.toNat / 8)
    let bs := if s.channels = 1 then pk (s.reg ra) else pk (s.reg ra) ++ pk (s.reg rb)
    bs.length = s.bitsps.toNat / 8 * s.channels.toNat ∧
    exec (.emit ra rb) s = .next (Spec.okAfter
      { s with out := s.out ++ bs, crcacc := bs.foldl (Spec.crcByte s.cfg.crcPoly) s.crcacc } 0#32)

/-- R192, R193: SIL appends SILCNT · BLOCKALIGN zero bytes outside the CRC and clears SILCNT; CRCS starts a frame;
both answer NotOpen while closed; their encodings. -/
def Obligations.SilenceAndFrameStart : Prop :=
  decode 0x33000000#32 = .command .sil ∧ decode 0x38000000#32 = .command .crcs ∧
  (∀ s : State, s.isOpen = false → exec .sil s = .next (Spec.errAfter s 0x03#8 0x33000000#32) ∧
    exec .crcs s = .next (Spec.errAfter s 0x03#8 0x38000000#32)) ∧
  ∀ s : State, s.isOpen = true →
    (∃ zs : List Byte, exec .sil s = .next (Spec.okAfter { s with out := s.out ++ zs, silcnt := 0 } 0#32) ∧
      (∀ b ∈ zs, b = 0#8) ∧ zs.length = s.silcnt.toNat * (s.bitsps.toNat / 8 * s.channels.toNat)) ∧
    exec .crcs s = .next (Spec.okAfter { s with crcacc := s.cfg.crcInit, ferr := false } 0#32)

/-- R195, R235: CRCE writes 1 on a match; on a mismatch it writes 0, sets FERR and answers the soft error, and the
session goes on; NotOpen while closed; its encoding. -/
def Obligations.FrameEndVerdict : Prop :=
  (∀ rd : Reg, decode (Spec.wordR 0x39#8 rd 0 0 0 0#8) = .command (.crce rd)) ∧
  (∀ (s : State) (rd : Reg), s.isOpen = false →
    exec (.crce rd) s = .next (Spec.errAfter s 0x03#8 (encode (.crce rd)))) ∧
  ∀ (s : State) (rd : Reg), s.isOpen = true →
    (Spec.crcFinal s.cfg s.crcacc = s.crcstored → exec (.crce rd) s = .next (Spec.okReg s rd 1#32)) ∧
    (Spec.crcFinal s.cfg s.crcacc ≠ s.crcstored → exec (.crce rd) s = .next (Spec.errAfter
      { s with d := s.d.set rd.val 0#32 rd.isLt, ferr := true } 0x0C#8 (encode (.crce rd))))
end

