-- ==== Sys2Proof/Laws/State.lean ====
section
/-! SUPPORT. Every named update of the state, field by field: what it writes, and that it leaves the rest. -/

namespace Sys2Proof.Machine

/-! ### setReg -/

@[simp] theorem State.setReg_cfg (s : State) (i : Reg) (v : Word) :
    (s.setReg i v).cfg = s.cfg := rfl
@[simp] theorem State.setReg_inbox (s : State) (i : Reg) (v : Word) :
    (s.setReg i v).inbox = s.inbox := rfl
@[simp] theorem State.setReg_responses (s : State) (i : Reg) (v : Word) :
    (s.setReg i v).responses = s.responses := rfl
@[simp] theorem State.setReg_out (s : State) (i : Reg) (v : Word) :
    (s.setReg i v).out = s.out := rfl
@[simp] theorem State.setReg_src (s : State) (i : Reg) (v : Word) :
    (s.setReg i v).src = s.src := rfl
@[simp] theorem State.setReg_srcLen (s : State) (i : Reg) (v : Word) :
    (s.setReg i v).srcLen = s.srcLen := rfl
@[simp] theorem State.setReg_answers (s : State) (i : Reg) (v : Word) :
    (s.setReg i v).answers = s.answers := rfl
@[simp] theorem State.setReg_reads (s : State) (i : Reg) (v : Word) :
    (s.setReg i v).reads = s.reads := rfl
@[simp] theorem State.setReg_d (s : State) (i : Reg) (v : Word) :
    (s.setReg i v).d = s.d.set i.val v i.isLt := rfl
@[simp] theorem State.setReg_seq (s : State) (i : Reg) (v : Word) :
    (s.setReg i v).seq = s.seq := rfl
@[simp] theorem State.setReg_isOpen (s : State) (i : Reg) (v : Word) :
    (s.setReg i v).isOpen = s.isOpen := rfl
@[simp] theorem State.setReg_bvalid (s : State) (i : Reg) (v : Word) :
    (s.setReg i v).bvalid = s.bvalid := rfl
@[simp] theorem State.setReg_ferr (s : State) (i : Reg) (v : Word) :
    (s.setReg i v).ferr = s.ferr := rfl
@[simp] theorem State.setReg_errlog (s : State) (i : Reg) (v : Word) :
    (s.setReg i v).errlog = s.errlog := rfl
@[simp] theorem State.setReg_lasterr (s : State) (i : Reg) (v : Word) :
    (s.setReg i v).lasterr = s.lasterr := rfl
@[simp] theorem State.setReg_lastcmd (s : State) (i : Reg) (v : Word) :
    (s.setReg i v).lastcmd = s.lastcmd := rfl
@[simp] theorem State.setReg_lastseq (s : State) (i : Reg) (v : Word) :
    (s.setReg i v).lastseq = s.lastseq := rfl
@[simp] theorem State.setReg_version (s : State) (i : Reg) (v : Word) :
    (s.setReg i v).version = s.version := rfl
@[simp] theorem State.setReg_channels (s : State) (i : Reg) (v : Word) :
    (s.setReg i v).channels = s.channels := rfl
@[simp] theorem State.setReg_bitsps (s : State) (i : Reg) (v : Word) :
    (s.setReg i v).bitsps = s.bitsps := rfl
@[simp] theorem State.setReg_lagsel (s : State) (i : Reg) (v : Word) :
    (s.setReg i v).lagsel = s.lagsel := rfl
@[simp] theorem State.setReg_msround (s : State) (i : Reg) (v : Word) :
    (s.setReg i v).msround = s.msround := rfl
@[simp] theorem State.setReg_win (s : State) (i : Reg) (v : Word) :
    (s.setReg i v).win = s.win := rfl
@[simp] theorem State.setReg_bitpos (s : State) (i : Reg) (v : Word) :
    (s.setReg i v).bitpos = s.bitpos := rfl
@[simp] theorem State.setReg_srcpos (s : State) (i : Reg) (v : Word) :
    (s.setReg i v).srcpos = s.srcpos := rfl
@[simp] theorem State.setReg_furthest (s : State) (i : Reg) (v : Word) :
    (s.setReg i v).furthest = s.furthest := rfl
@[simp] theorem State.setReg_srcsize (s : State) (i : Reg) (v : Word) :
    (s.setReg i v).srcsize = s.srcsize := rfl
@[simp] theorem State.setReg_rk (s : State) (i : Reg) (v : Word) :
    (s.setReg i v).rk = s.rk := rfl
@[simp] theorem State.setReg_rksum (s : State) (i : Reg) (v : Word) :
    (s.setReg i v).rksum = s.rksum := rfl
@[simp] theorem State.setReg_crcacc (s : State) (i : Reg) (v : Word) :
    (s.setReg i v).crcacc = s.crcacc := rfl
@[simp] theorem State.setReg_crcstored (s : State) (i : Reg) (v : Word) :
    (s.setReg i v).crcstored = s.crcstored := rfl
@[simp] theorem State.setReg_silcnt (s : State) (i : Reg) (v : Word) :
    (s.setReg i v).silcnt = s.silcnt := rfl
@[simp] theorem State.setReg_filters (s : State) (i : Reg) (v : Word) :
    (s.setReg i v).filters = s.filters := rfl

/-! ### setFilter -/

@[simp] theorem State.setFilter_cfg (s : State) (f : Fin 8) (x : Filter) :
    (s.setFilter f x).cfg = s.cfg := rfl
@[simp] theorem State.setFilter_inbox (s : State) (f : Fin 8) (x : Filter) :
    (s.setFilter f x).inbox = s.inbox := rfl
@[simp] theorem State.setFilter_responses (s : State) (f : Fin 8) (x : Filter) :
    (s.setFilter f x).responses = s.responses := rfl
@[simp] theorem State.setFilter_out (s : State) (f : Fin 8) (x : Filter) :
    (s.setFilter f x).out = s.out := rfl
@[simp] theorem State.setFilter_src (s : State) (f : Fin 8) (x : Filter) :
    (s.setFilter f x).src = s.src := rfl
@[simp] theorem State.setFilter_srcLen (s : State) (f : Fin 8) (x : Filter) :
    (s.setFilter f x).srcLen = s.srcLen := rfl
@[simp] theorem State.setFilter_answers (s : State) (f : Fin 8) (x : Filter) :
    (s.setFilter f x).answers = s.answers := rfl
@[simp] theorem State.setFilter_reads (s : State) (f : Fin 8) (x : Filter) :
    (s.setFilter f x).reads = s.reads := rfl
@[simp] theorem State.setFilter_d (s : State) (f : Fin 8) (x : Filter) :
    (s.setFilter f x).d = s.d := rfl
@[simp] theorem State.setFilter_seq (s : State) (f : Fin 8) (x : Filter) :
    (s.setFilter f x).seq = s.seq := rfl
@[simp] theorem State.setFilter_isOpen (s : State) (f : Fin 8) (x : Filter) :
    (s.setFilter f x).isOpen = s.isOpen := rfl
@[simp] theorem State.setFilter_bvalid (s : State) (f : Fin 8) (x : Filter) :
    (s.setFilter f x).bvalid = s.bvalid := rfl
@[simp] theorem State.setFilter_ferr (s : State) (f : Fin 8) (x : Filter) :
    (s.setFilter f x).ferr = s.ferr := rfl
@[simp] theorem State.setFilter_errlog (s : State) (f : Fin 8) (x : Filter) :
    (s.setFilter f x).errlog = s.errlog := rfl
@[simp] theorem State.setFilter_lasterr (s : State) (f : Fin 8) (x : Filter) :
    (s.setFilter f x).lasterr = s.lasterr := rfl
@[simp] theorem State.setFilter_lastcmd (s : State) (f : Fin 8) (x : Filter) :
    (s.setFilter f x).lastcmd = s.lastcmd := rfl
@[simp] theorem State.setFilter_lastseq (s : State) (f : Fin 8) (x : Filter) :
    (s.setFilter f x).lastseq = s.lastseq := rfl
@[simp] theorem State.setFilter_version (s : State) (f : Fin 8) (x : Filter) :
    (s.setFilter f x).version = s.version := rfl
@[simp] theorem State.setFilter_channels (s : State) (f : Fin 8) (x : Filter) :
    (s.setFilter f x).channels = s.channels := rfl
@[simp] theorem State.setFilter_bitsps (s : State) (f : Fin 8) (x : Filter) :
    (s.setFilter f x).bitsps = s.bitsps := rfl
@[simp] theorem State.setFilter_lagsel (s : State) (f : Fin 8) (x : Filter) :
    (s.setFilter f x).lagsel = s.lagsel := rfl
@[simp] theorem State.setFilter_msround (s : State) (f : Fin 8) (x : Filter) :
    (s.setFilter f x).msround = s.msround := rfl
@[simp] theorem State.setFilter_win (s : State) (f : Fin 8) (x : Filter) :
    (s.setFilter f x).win = s.win := rfl
@[simp] theorem State.setFilter_bitpos (s : State) (f : Fin 8) (x : Filter) :
    (s.setFilter f x).bitpos = s.bitpos := rfl
@[simp] theorem State.setFilter_srcpos (s : State) (f : Fin 8) (x : Filter) :
    (s.setFilter f x).srcpos = s.srcpos := rfl
@[simp] theorem State.setFilter_furthest (s : State) (f : Fin 8) (x : Filter) :
    (s.setFilter f x).furthest = s.furthest := rfl
@[simp] theorem State.setFilter_srcsize (s : State) (f : Fin 8) (x : Filter) :
    (s.setFilter f x).srcsize = s.srcsize := rfl
@[simp] theorem State.setFilter_rk (s : State) (f : Fin 8) (x : Filter) :
    (s.setFilter f x).rk = s.rk := rfl
@[simp] theorem State.setFilter_rksum (s : State) (f : Fin 8) (x : Filter) :
    (s.setFilter f x).rksum = s.rksum := rfl
@[simp] theorem State.setFilter_crcacc (s : State) (f : Fin 8) (x : Filter) :
    (s.setFilter f x).crcacc = s.crcacc := rfl
@[simp] theorem State.setFilter_crcstored (s : State) (f : Fin 8) (x : Filter) :
    (s.setFilter f x).crcstored = s.crcstored := rfl
@[simp] theorem State.setFilter_silcnt (s : State) (f : Fin 8) (x : Filter) :
    (s.setFilter f x).silcnt = s.silcnt := rfl
@[simp] theorem State.setFilter_filters (s : State) (f : Fin 8) (x : Filter) :
    (s.setFilter f x).filters = s.filters.set f.val x f.isLt := rfl

/-! ### append -/

@[simp] theorem State.append_cfg (s : State) (bs : List Byte) :
    (s.append bs).cfg = s.cfg := rfl
@[simp] theorem State.append_inbox (s : State) (bs : List Byte) :
    (s.append bs).inbox = s.inbox := rfl
@[simp] theorem State.append_responses (s : State) (bs : List Byte) :
    (s.append bs).responses = s.responses := rfl
@[simp] theorem State.append_out (s : State) (bs : List Byte) :
    (s.append bs).out = s.out ++ bs := rfl
@[simp] theorem State.append_src (s : State) (bs : List Byte) :
    (s.append bs).src = s.src := rfl
@[simp] theorem State.append_srcLen (s : State) (bs : List Byte) :
    (s.append bs).srcLen = s.srcLen := rfl
@[simp] theorem State.append_answers (s : State) (bs : List Byte) :
    (s.append bs).answers = s.answers := rfl
@[simp] theorem State.append_reads (s : State) (bs : List Byte) :
    (s.append bs).reads = s.reads := rfl
@[simp] theorem State.append_d (s : State) (bs : List Byte) :
    (s.append bs).d = s.d := rfl
@[simp] theorem State.append_seq (s : State) (bs : List Byte) :
    (s.append bs).seq = s.seq := rfl
@[simp] theorem State.append_isOpen (s : State) (bs : List Byte) :
    (s.append bs).isOpen = s.isOpen := rfl
@[simp] theorem State.append_bvalid (s : State) (bs : List Byte) :
    (s.append bs).bvalid = s.bvalid := rfl
@[simp] theorem State.append_ferr (s : State) (bs : List Byte) :
    (s.append bs).ferr = s.ferr := rfl
@[simp] theorem State.append_errlog (s : State) (bs : List Byte) :
    (s.append bs).errlog = s.errlog := rfl
@[simp] theorem State.append_lasterr (s : State) (bs : List Byte) :
    (s.append bs).lasterr = s.lasterr := rfl
@[simp] theorem State.append_lastcmd (s : State) (bs : List Byte) :
    (s.append bs).lastcmd = s.lastcmd := rfl
@[simp] theorem State.append_lastseq (s : State) (bs : List Byte) :
    (s.append bs).lastseq = s.lastseq := rfl
@[simp] theorem State.append_version (s : State) (bs : List Byte) :
    (s.append bs).version = s.version := rfl
@[simp] theorem State.append_channels (s : State) (bs : List Byte) :
    (s.append bs).channels = s.channels := rfl
@[simp] theorem State.append_bitsps (s : State) (bs : List Byte) :
    (s.append bs).bitsps = s.bitsps := rfl
@[simp] theorem State.append_lagsel (s : State) (bs : List Byte) :
    (s.append bs).lagsel = s.lagsel := rfl
@[simp] theorem State.append_msround (s : State) (bs : List Byte) :
    (s.append bs).msround = s.msround := rfl
@[simp] theorem State.append_win (s : State) (bs : List Byte) :
    (s.append bs).win = s.win := rfl
@[simp] theorem State.append_bitpos (s : State) (bs : List Byte) :
    (s.append bs).bitpos = s.bitpos := rfl
@[simp] theorem State.append_srcpos (s : State) (bs : List Byte) :
    (s.append bs).srcpos = s.srcpos := rfl
@[simp] theorem State.append_furthest (s : State) (bs : List Byte) :
    (s.append bs).furthest = s.furthest := rfl
@[simp] theorem State.append_srcsize (s : State) (bs : List Byte) :
    (s.append bs).srcsize = s.srcsize := rfl
@[simp] theorem State.append_rk (s : State) (bs : List Byte) :
    (s.append bs).rk = s.rk := rfl
@[simp] theorem State.append_rksum (s : State) (bs : List Byte) :
    (s.append bs).rksum = s.rksum := rfl
@[simp] theorem State.append_crcacc (s : State) (bs : List Byte) :
    (s.append bs).crcacc = s.crcacc := rfl
@[simp] theorem State.append_crcstored (s : State) (bs : List Byte) :
    (s.append bs).crcstored = s.crcstored := rfl
@[simp] theorem State.append_silcnt (s : State) (bs : List Byte) :
    (s.append bs).silcnt = s.silcnt := rfl
@[simp] theorem State.append_filters (s : State) (bs : List Byte) :
    (s.append bs).filters = s.filters := rfl

/-! ### respond -/

@[simp] theorem State.respond_cfg (s : State) (c : Byte) (v : Word) :
    (s.respond c v).cfg = s.cfg := rfl
@[simp] theorem State.respond_inbox (s : State) (c : Byte) (v : Word) :
    (s.respond c v).inbox = s.inbox := rfl
@[simp] theorem State.respond_responses (s : State) (c : Byte) (v : Word) :
    (s.respond c v).responses = s.responses ++ [⟨c, v⟩] := rfl
@[simp] theorem State.respond_out (s : State) (c : Byte) (v : Word) :
    (s.respond c v).out = s.out := rfl
@[simp] theorem State.respond_src (s : State) (c : Byte) (v : Word) :
    (s.respond c v).src = s.src := rfl
@[simp] theorem State.respond_srcLen (s : State) (c : Byte) (v : Word) :
    (s.respond c v).srcLen = s.srcLen := rfl
@[simp] theorem State.respond_answers (s : State) (c : Byte) (v : Word) :
    (s.respond c v).answers = s.answers := rfl
@[simp] theorem State.respond_reads (s : State) (c : Byte) (v : Word) :
    (s.respond c v).reads = s.reads := rfl
@[simp] theorem State.respond_d (s : State) (c : Byte) (v : Word) :
    (s.respond c v).d = s.d := rfl
@[simp] theorem State.respond_seq (s : State) (c : Byte) (v : Word) :
    (s.respond c v).seq = s.seq + 1 := rfl
@[simp] theorem State.respond_isOpen (s : State) (c : Byte) (v : Word) :
    (s.respond c v).isOpen = s.isOpen := rfl
@[simp] theorem State.respond_bvalid (s : State) (c : Byte) (v : Word) :
    (s.respond c v).bvalid = s.bvalid := rfl
@[simp] theorem State.respond_ferr (s : State) (c : Byte) (v : Word) :
    (s.respond c v).ferr = s.ferr := rfl
@[simp] theorem State.respond_errlog (s : State) (c : Byte) (v : Word) :
    (s.respond c v).errlog = s.errlog := rfl
@[simp] theorem State.respond_lasterr (s : State) (c : Byte) (v : Word) :
    (s.respond c v).lasterr = s.lasterr := rfl
@[simp] theorem State.respond_lastcmd (s : State) (c : Byte) (v : Word) :
    (s.respond c v).lastcmd = s.lastcmd := rfl
@[simp] theorem State.respond_lastseq (s : State) (c : Byte) (v : Word) :
    (s.respond c v).lastseq = s.lastseq := rfl
@[simp] theorem State.respond_version (s : State) (c : Byte) (v : Word) :
    (s.respond c v).version = s.version := rfl
@[simp] theorem State.respond_channels (s : State) (c : Byte) (v : Word) :
    (s.respond c v).channels = s.channels := rfl
@[simp] theorem State.respond_bitsps (s : State) (c : Byte) (v : Word) :
    (s.respond c v).bitsps = s.bitsps := rfl
@[simp] theorem State.respond_lagsel (s : State) (c : Byte) (v : Word) :
    (s.respond c v).lagsel = s.lagsel := rfl
@[simp] theorem State.respond_msround (s : State) (c : Byte) (v : Word) :
    (s.respond c v).msround = s.msround := rfl
@[simp] theorem State.respond_win (s : State) (c : Byte) (v : Word) :
    (s.respond c v).win = s.win := rfl
@[simp] theorem State.respond_bitpos (s : State) (c : Byte) (v : Word) :
    (s.respond c v).bitpos = s.bitpos := rfl
@[simp] theorem State.respond_srcpos (s : State) (c : Byte) (v : Word) :
    (s.respond c v).srcpos = s.srcpos := rfl
@[simp] theorem State.respond_furthest (s : State) (c : Byte) (v : Word) :
    (s.respond c v).furthest = s.furthest := rfl
@[simp] theorem State.respond_srcsize (s : State) (c : Byte) (v : Word) :
    (s.respond c v).srcsize = s.srcsize := rfl
@[simp] theorem State.respond_rk (s : State) (c : Byte) (v : Word) :
    (s.respond c v).rk = s.rk := rfl
@[simp] theorem State.respond_rksum (s : State) (c : Byte) (v : Word) :
    (s.respond c v).rksum = s.rksum := rfl
@[simp] theorem State.respond_crcacc (s : State) (c : Byte) (v : Word) :
    (s.respond c v).crcacc = s.crcacc := rfl
@[simp] theorem State.respond_crcstored (s : State) (c : Byte) (v : Word) :
    (s.respond c v).crcstored = s.crcstored := rfl
@[simp] theorem State.respond_silcnt (s : State) (c : Byte) (v : Word) :
    (s.respond c v).silcnt = s.silcnt := rfl
@[simp] theorem State.respond_filters (s : State) (c : Byte) (v : Word) :
    (s.respond c v).filters = s.filters := rfl

/-! ### complete -/

@[simp] theorem State.complete_cfg (s : State) (v : Word) :
    (s.complete v).cfg = s.cfg := rfl
@[simp] theorem State.complete_inbox (s : State) (v : Word) :
    (s.complete v).inbox = s.inbox := rfl
@[simp] theorem State.complete_responses (s : State) (v : Word) :
    (s.complete v).responses = s.responses ++ [⟨0x00#8, v⟩] := rfl
@[simp] theorem State.complete_out (s : State) (v : Word) :
    (s.complete v).out = s.out := rfl
@[simp] theorem State.complete_src (s : State) (v : Word) :
    (s.complete v).src = s.src := rfl
@[simp] theorem State.complete_srcLen (s : State) (v : Word) :
    (s.complete v).srcLen = s.srcLen := rfl
@[simp] theorem State.complete_answers (s : State) (v : Word) :
    (s.complete v).answers = s.answers := rfl
@[simp] theorem State.complete_reads (s : State) (v : Word) :
    (s.complete v).reads = s.reads := rfl
@[simp] theorem State.complete_d (s : State) (v : Word) :
    (s.complete v).d = s.d := rfl
@[simp] theorem State.complete_seq (s : State) (v : Word) :
    (s.complete v).seq = s.seq + 1 := rfl
@[simp] theorem State.complete_isOpen (s : State) (v : Word) :
    (s.complete v).isOpen = s.isOpen := rfl
@[simp] theorem State.complete_bvalid (s : State) (v : Word) :
    (s.complete v).bvalid = s.bvalid := rfl
@[simp] theorem State.complete_ferr (s : State) (v : Word) :
    (s.complete v).ferr = s.ferr := rfl
@[simp] theorem State.complete_errlog (s : State) (v : Word) :
    (s.complete v).errlog = s.errlog := rfl
@[simp] theorem State.complete_lasterr (s : State) (v : Word) :
    (s.complete v).lasterr = s.lasterr := rfl
@[simp] theorem State.complete_lastcmd (s : State) (v : Word) :
    (s.complete v).lastcmd = s.lastcmd := rfl
@[simp] theorem State.complete_lastseq (s : State) (v : Word) :
    (s.complete v).lastseq = s.lastseq := rfl
@[simp] theorem State.complete_version (s : State) (v : Word) :
    (s.complete v).version = s.version := rfl
@[simp] theorem State.complete_channels (s : State) (v : Word) :
    (s.complete v).channels = s.channels := rfl
@[simp] theorem State.complete_bitsps (s : State) (v : Word) :
    (s.complete v).bitsps = s.bitsps := rfl
@[simp] theorem State.complete_lagsel (s : State) (v : Word) :
    (s.complete v).lagsel = s.lagsel := rfl
@[simp] theorem State.complete_msround (s : State) (v : Word) :
    (s.complete v).msround = s.msround := rfl
@[simp] theorem State.complete_win (s : State) (v : Word) :
    (s.complete v).win = s.win := rfl
@[simp] theorem State.complete_bitpos (s : State) (v : Word) :
    (s.complete v).bitpos = s.bitpos := rfl
@[simp] theorem State.complete_srcpos (s : State) (v : Word) :
    (s.complete v).srcpos = s.srcpos := rfl
@[simp] theorem State.complete_furthest (s : State) (v : Word) :
    (s.complete v).furthest = s.furthest := rfl
@[simp] theorem State.complete_srcsize (s : State) (v : Word) :
    (s.complete v).srcsize = s.srcsize := rfl
@[simp] theorem State.complete_rk (s : State) (v : Word) :
    (s.complete v).rk = s.rk := rfl
@[simp] theorem State.complete_rksum (s : State) (v : Word) :
    (s.complete v).rksum = s.rksum := rfl
@[simp] theorem State.complete_crcacc (s : State) (v : Word) :
    (s.complete v).crcacc = s.crcacc := rfl
@[simp] theorem State.complete_crcstored (s : State) (v : Word) :
    (s.complete v).crcstored = s.crcstored := rfl
@[simp] theorem State.complete_silcnt (s : State) (v : Word) :
    (s.complete v).silcnt = s.silcnt := rfl
@[simp] theorem State.complete_filters (s : State) (v : Word) :
    (s.complete v).filters = s.filters := rfl

/-! ### completeReg -/

@[simp] theorem State.completeReg_cfg (s : State) (i : Reg) (v : Word) :
    (s.completeReg i v).cfg = s.cfg := rfl
@[simp] theorem State.completeReg_inbox (s : State) (i : Reg) (v : Word) :
    (s.completeReg i v).inbox = s.inbox := rfl
@[simp] theorem State.completeReg_responses (s : State) (i : Reg) (v : Word) :
    (s.completeReg i v).responses = s.responses ++ [⟨0x00#8, v⟩] := rfl
@[simp] theorem State.completeReg_out (s : State) (i : Reg) (v : Word) :
    (s.completeReg i v).out = s.out := rfl
@[simp] theorem State.completeReg_src (s : State) (i : Reg) (v : Word) :
    (s.completeReg i v).src = s.src := rfl
@[simp] theorem State.completeReg_srcLen (s : State) (i : Reg) (v : Word) :
    (s.completeReg i v).srcLen = s.srcLen := rfl
@[simp] theorem State.completeReg_answers (s : State) (i : Reg) (v : Word) :
    (s.completeReg i v).answers = s.answers := rfl
@[simp] theorem State.completeReg_reads (s : State) (i : Reg) (v : Word) :
    (s.completeReg i v).reads = s.reads := rfl
@[simp] theorem State.completeReg_d (s : State) (i : Reg) (v : Word) :
    (s.completeReg i v).d = s.d.set i.val v i.isLt := rfl
@[simp] theorem State.completeReg_seq (s : State) (i : Reg) (v : Word) :
    (s.completeReg i v).seq = s.seq + 1 := rfl
@[simp] theorem State.completeReg_isOpen (s : State) (i : Reg) (v : Word) :
    (s.completeReg i v).isOpen = s.isOpen := rfl
@[simp] theorem State.completeReg_bvalid (s : State) (i : Reg) (v : Word) :
    (s.completeReg i v).bvalid = s.bvalid := rfl
@[simp] theorem State.completeReg_ferr (s : State) (i : Reg) (v : Word) :
    (s.completeReg i v).ferr = s.ferr := rfl
@[simp] theorem State.completeReg_errlog (s : State) (i : Reg) (v : Word) :
    (s.completeReg i v).errlog = s.errlog := rfl
@[simp] theorem State.completeReg_lasterr (s : State) (i : Reg) (v : Word) :
    (s.completeReg i v).lasterr = s.lasterr := rfl
@[simp] theorem State.completeReg_lastcmd (s : State) (i : Reg) (v : Word) :
    (s.completeReg i v).lastcmd = s.lastcmd := rfl
@[simp] theorem State.completeReg_lastseq (s : State) (i : Reg) (v : Word) :
    (s.completeReg i v).lastseq = s.lastseq := rfl
@[simp] theorem State.completeReg_version (s : State) (i : Reg) (v : Word) :
    (s.completeReg i v).version = s.version := rfl
@[simp] theorem State.completeReg_channels (s : State) (i : Reg) (v : Word) :
    (s.completeReg i v).channels = s.channels := rfl
@[simp] theorem State.completeReg_bitsps (s : State) (i : Reg) (v : Word) :
    (s.completeReg i v).bitsps = s.bitsps := rfl
@[simp] theorem State.completeReg_lagsel (s : State) (i : Reg) (v : Word) :
    (s.completeReg i v).lagsel = s.lagsel := rfl
@[simp] theorem State.completeReg_msround (s : State) (i : Reg) (v : Word) :
    (s.completeReg i v).msround = s.msround := rfl
@[simp] theorem State.completeReg_win (s : State) (i : Reg) (v : Word) :
    (s.completeReg i v).win = s.win := rfl
@[simp] theorem State.completeReg_bitpos (s : State) (i : Reg) (v : Word) :
    (s.completeReg i v).bitpos = s.bitpos := rfl
@[simp] theorem State.completeReg_srcpos (s : State) (i : Reg) (v : Word) :
    (s.completeReg i v).srcpos = s.srcpos := rfl
@[simp] theorem State.completeReg_furthest (s : State) (i : Reg) (v : Word) :
    (s.completeReg i v).furthest = s.furthest := rfl
@[simp] theorem State.completeReg_srcsize (s : State) (i : Reg) (v : Word) :
    (s.completeReg i v).srcsize = s.srcsize := rfl
@[simp] theorem State.completeReg_rk (s : State) (i : Reg) (v : Word) :
    (s.completeReg i v).rk = s.rk := rfl
@[simp] theorem State.completeReg_rksum (s : State) (i : Reg) (v : Word) :
    (s.completeReg i v).rksum = s.rksum := rfl
@[simp] theorem State.completeReg_crcacc (s : State) (i : Reg) (v : Word) :
    (s.completeReg i v).crcacc = s.crcacc := rfl
@[simp] theorem State.completeReg_crcstored (s : State) (i : Reg) (v : Word) :
    (s.completeReg i v).crcstored = s.crcstored := rfl
@[simp] theorem State.completeReg_silcnt (s : State) (i : Reg) (v : Word) :
    (s.completeReg i v).silcnt = s.silcnt := rfl
@[simp] theorem State.completeReg_filters (s : State) (i : Reg) (v : Word) :
    (s.completeReg i v).filters = s.filters := rfl

/-! ### record -/

@[simp] theorem State.record_cfg (s : State) (e : Err) (w : Word) :
    (s.record e w).cfg = s.cfg := rfl
@[simp] theorem State.record_inbox (s : State) (e : Err) (w : Word) :
    (s.record e w).inbox = s.inbox := rfl
@[simp] theorem State.record_responses (s : State) (e : Err) (w : Word) :
    (s.record e w).responses = s.responses := rfl
@[simp] theorem State.record_out (s : State) (e : Err) (w : Word) :
    (s.record e w).out = s.out := rfl
@[simp] theorem State.record_src (s : State) (e : Err) (w : Word) :
    (s.record e w).src = s.src := rfl
@[simp] theorem State.record_srcLen (s : State) (e : Err) (w : Word) :
    (s.record e w).srcLen = s.srcLen := rfl
@[simp] theorem State.record_answers (s : State) (e : Err) (w : Word) :
    (s.record e w).answers = s.answers := rfl
@[simp] theorem State.record_reads (s : State) (e : Err) (w : Word) :
    (s.record e w).reads = s.reads := rfl
@[simp] theorem State.record_d (s : State) (e : Err) (w : Word) :
    (s.record e w).d = s.d := rfl
@[simp] theorem State.record_seq (s : State) (e : Err) (w : Word) :
    (s.record e w).seq = s.seq := rfl
@[simp] theorem State.record_isOpen (s : State) (e : Err) (w : Word) :
    (s.record e w).isOpen = s.isOpen := rfl
@[simp] theorem State.record_bvalid (s : State) (e : Err) (w : Word) :
    (s.record e w).bvalid = s.bvalid := rfl
@[simp] theorem State.record_ferr (s : State) (e : Err) (w : Word) :
    (s.record e w).ferr = s.ferr := rfl
@[simp] theorem State.record_errlog (s : State) (e : Err) (w : Word) :
    (s.record e w).errlog = s.errlog ||| (1#12 <<< (e.code.toNat - 1)) := rfl
@[simp] theorem State.record_lasterr (s : State) (e : Err) (w : Word) :
    (s.record e w).lasterr = e.code := rfl
@[simp] theorem State.record_lastcmd (s : State) (e : Err) (w : Word) :
    (s.record e w).lastcmd = w := rfl
@[simp] theorem State.record_lastseq (s : State) (e : Err) (w : Word) :
    (s.record e w).lastseq = s.seq := rfl
@[simp] theorem State.record_version (s : State) (e : Err) (w : Word) :
    (s.record e w).version = s.version := rfl
@[simp] theorem State.record_channels (s : State) (e : Err) (w : Word) :
    (s.record e w).channels = s.channels := rfl
@[simp] theorem State.record_bitsps (s : State) (e : Err) (w : Word) :
    (s.record e w).bitsps = s.bitsps := rfl
@[simp] theorem State.record_lagsel (s : State) (e : Err) (w : Word) :
    (s.record e w).lagsel = s.lagsel := rfl
@[simp] theorem State.record_msround (s : State) (e : Err) (w : Word) :
    (s.record e w).msround = s.msround := rfl
@[simp] theorem State.record_win (s : State) (e : Err) (w : Word) :
    (s.record e w).win = s.win := rfl
@[simp] theorem State.record_bitpos (s : State) (e : Err) (w : Word) :
    (s.record e w).bitpos = s.bitpos := rfl
@[simp] theorem State.record_srcpos (s : State) (e : Err) (w : Word) :
    (s.record e w).srcpos = s.srcpos := rfl
@[simp] theorem State.record_furthest (s : State) (e : Err) (w : Word) :
    (s.record e w).furthest = s.furthest := rfl
@[simp] theorem State.record_srcsize (s : State) (e : Err) (w : Word) :
    (s.record e w).srcsize = s.srcsize := rfl
@[simp] theorem State.record_rk (s : State) (e : Err) (w : Word) :
    (s.record e w).rk = s.rk := rfl
@[simp] theorem State.record_rksum (s : State) (e : Err) (w : Word) :
    (s.record e w).rksum = s.rksum := rfl
@[simp] theorem State.record_crcacc (s : State) (e : Err) (w : Word) :
    (s.record e w).crcacc = s.crcacc := rfl
@[simp] theorem State.record_crcstored (s : State) (e : Err) (w : Word) :
    (s.record e w).crcstored = s.crcstored := rfl
@[simp] theorem State.record_silcnt (s : State) (e : Err) (w : Word) :
    (s.record e w).silcnt = s.silcnt := rfl
@[simp] theorem State.record_filters (s : State) (e : Err) (w : Word) :
    (s.record e w).filters = s.filters := rfl

/-! ### raise -/

@[simp] theorem State.raise_cfg (s : State) (e : Err) (w : Word) :
    (s.raise e w).cfg = s.cfg := rfl
@[simp] theorem State.raise_inbox (s : State) (e : Err) (w : Word) :
    (s.raise e w).inbox = s.inbox := rfl
@[simp] theorem State.raise_responses (s : State) (e : Err) (w : Word) :
    (s.raise e w).responses = s.responses ++ [⟨e.code, 0#32⟩] := rfl
@[simp] theorem State.raise_out (s : State) (e : Err) (w : Word) :
    (s.raise e w).out = s.out := rfl
@[simp] theorem State.raise_src (s : State) (e : Err) (w : Word) :
    (s.raise e w).src = s.src := rfl
@[simp] theorem State.raise_srcLen (s : State) (e : Err) (w : Word) :
    (s.raise e w).srcLen = s.srcLen := rfl
@[simp] theorem State.raise_answers (s : State) (e : Err) (w : Word) :
    (s.raise e w).answers = s.answers := rfl
@[simp] theorem State.raise_reads (s : State) (e : Err) (w : Word) :
    (s.raise e w).reads = s.reads := rfl
@[simp] theorem State.raise_d (s : State) (e : Err) (w : Word) :
    (s.raise e w).d = s.d := rfl
@[simp] theorem State.raise_seq (s : State) (e : Err) (w : Word) :
    (s.raise e w).seq = s.seq + 1 := rfl
@[simp] theorem State.raise_isOpen (s : State) (e : Err) (w : Word) :
    (s.raise e w).isOpen = s.isOpen := rfl
@[simp] theorem State.raise_bvalid (s : State) (e : Err) (w : Word) :
    (s.raise e w).bvalid = s.bvalid := rfl
@[simp] theorem State.raise_ferr (s : State) (e : Err) (w : Word) :
    (s.raise e w).ferr = s.ferr := rfl
@[simp] theorem State.raise_errlog (s : State) (e : Err) (w : Word) :
    (s.raise e w).errlog = s.errlog ||| (1#12 <<< (e.code.toNat - 1)) := rfl
@[simp] theorem State.raise_lasterr (s : State) (e : Err) (w : Word) :
    (s.raise e w).lasterr = e.code := rfl
@[simp] theorem State.raise_lastcmd (s : State) (e : Err) (w : Word) :
    (s.raise e w).lastcmd = w := rfl
@[simp] theorem State.raise_lastseq (s : State) (e : Err) (w : Word) :
    (s.raise e w).lastseq = s.seq := rfl
@[simp] theorem State.raise_version (s : State) (e : Err) (w : Word) :
    (s.raise e w).version = s.version := rfl
@[simp] theorem State.raise_channels (s : State) (e : Err) (w : Word) :
    (s.raise e w).channels = s.channels := rfl
@[simp] theorem State.raise_bitsps (s : State) (e : Err) (w : Word) :
    (s.raise e w).bitsps = s.bitsps := rfl
@[simp] theorem State.raise_lagsel (s : State) (e : Err) (w : Word) :
    (s.raise e w).lagsel = s.lagsel := rfl
@[simp] theorem State.raise_msround (s : State) (e : Err) (w : Word) :
    (s.raise e w).msround = s.msround := rfl
@[simp] theorem State.raise_win (s : State) (e : Err) (w : Word) :
    (s.raise e w).win = s.win := rfl
@[simp] theorem State.raise_bitpos (s : State) (e : Err) (w : Word) :
    (s.raise e w).bitpos = s.bitpos := rfl
@[simp] theorem State.raise_srcpos (s : State) (e : Err) (w : Word) :
    (s.raise e w).srcpos = s.srcpos := rfl
@[simp] theorem State.raise_furthest (s : State) (e : Err) (w : Word) :
    (s.raise e w).furthest = s.furthest := rfl
@[simp] theorem State.raise_srcsize (s : State) (e : Err) (w : Word) :
    (s.raise e w).srcsize = s.srcsize := rfl
@[simp] theorem State.raise_rk (s : State) (e : Err) (w : Word) :
    (s.raise e w).rk = s.rk := rfl
@[simp] theorem State.raise_rksum (s : State) (e : Err) (w : Word) :
    (s.raise e w).rksum = s.rksum := rfl
@[simp] theorem State.raise_crcacc (s : State) (e : Err) (w : Word) :
    (s.raise e w).crcacc = s.crcacc := rfl
@[simp] theorem State.raise_crcstored (s : State) (e : Err) (w : Word) :
    (s.raise e w).crcstored = s.crcstored := rfl
@[simp] theorem State.raise_silcnt (s : State) (e : Err) (w : Word) :
    (s.raise e w).silcnt = s.silcnt := rfl
@[simp] theorem State.raise_filters (s : State) (e : Err) (w : Word) :
    (s.raise e w).filters = s.filters := rfl

/-! ### readDone -/

@[simp] theorem State.readDone_cfg (s : State) :
    s.readDone.cfg = s.cfg := rfl
@[simp] theorem State.readDone_inbox (s : State) :
    s.readDone.inbox = s.inbox := rfl
@[simp] theorem State.readDone_responses (s : State) :
    s.readDone.responses = s.responses := rfl
@[simp] theorem State.readDone_out (s : State) :
    s.readDone.out = s.out := rfl
@[simp] theorem State.readDone_src (s : State) :
    s.readDone.src = s.src := rfl
@[simp] theorem State.readDone_srcLen (s : State) :
    s.readDone.srcLen = s.srcLen := rfl
@[simp] theorem State.readDone_answers (s : State) :
    s.readDone.answers = s.answers.tail := rfl
@[simp] theorem State.readDone_reads (s : State) :
    s.readDone.reads = s.reads + 1 := rfl
@[simp] theorem State.readDone_d (s : State) :
    s.readDone.d = s.d := rfl
@[simp] theorem State.readDone_seq (s : State) :
    s.readDone.seq = s.seq := rfl
@[simp] theorem State.readDone_isOpen (s : State) :
    s.readDone.isOpen = s.isOpen := rfl
@[simp] theorem State.readDone_bvalid (s : State) :
    s.readDone.bvalid = s.bvalid := rfl
@[simp] theorem State.readDone_ferr (s : State) :
    s.readDone.ferr = s.ferr := rfl
@[simp] theorem State.readDone_errlog (s : State) :
    s.readDone.errlog = s.errlog := rfl
@[simp] theorem State.readDone_lasterr (s : State) :
    s.readDone.lasterr = s.lasterr := rfl
@[simp] theorem State.readDone_lastcmd (s : State) :
    s.readDone.lastcmd = s.lastcmd := rfl
@[simp] theorem State.readDone_lastseq (s : State) :
    s.readDone.lastseq = s.lastseq := rfl
@[simp] theorem State.readDone_version (s : State) :
    s.readDone.version = s.version := rfl
@[simp] theorem State.readDone_channels (s : State) :
    s.readDone.channels = s.channels := rfl
@[simp] theorem State.readDone_bitsps (s : State) :
    s.readDone.bitsps = s.bitsps := rfl
@[simp] theorem State.readDone_lagsel (s : State) :
    s.readDone.lagsel = s.lagsel := rfl
@[simp] theorem State.readDone_msround (s : State) :
    s.readDone.msround = s.msround := rfl
@[simp] theorem State.readDone_win (s : State) :
    s.readDone.win = s.win := rfl
@[simp] theorem State.readDone_bitpos (s : State) :
    s.readDone.bitpos = s.bitpos := rfl
@[simp] theorem State.readDone_srcpos (s : State) :
    s.readDone.srcpos = s.srcpos := rfl
@[simp] theorem State.readDone_furthest (s : State) :
    s.readDone.furthest = s.furthest := rfl
@[simp] theorem State.readDone_srcsize (s : State) :
    s.readDone.srcsize = s.srcsize := rfl
@[simp] theorem State.readDone_rk (s : State) :
    s.readDone.rk = s.rk := rfl
@[simp] theorem State.readDone_rksum (s : State) :
    s.readDone.rksum = s.rksum := rfl
@[simp] theorem State.readDone_crcacc (s : State) :
    s.readDone.crcacc = s.crcacc := rfl
@[simp] theorem State.readDone_crcstored (s : State) :
    s.readDone.crcstored = s.crcstored := rfl
@[simp] theorem State.readDone_silcnt (s : State) :
    s.readDone.silcnt = s.silcnt := rfl
@[simp] theorem State.readDone_filters (s : State) :
    s.readDone.filters = s.filters := rfl

/-! ### cursorLost -/

@[simp] theorem State.cursorLost_cfg (s : State) :
    s.cursorLost.cfg = s.cfg := rfl
@[simp] theorem State.cursorLost_inbox (s : State) :
    s.cursorLost.inbox = s.inbox := rfl
@[simp] theorem State.cursorLost_responses (s : State) :
    s.cursorLost.responses = s.responses := rfl
@[simp] theorem State.cursorLost_out (s : State) :
    s.cursorLost.out = s.out := rfl
@[simp] theorem State.cursorLost_src (s : State) :
    s.cursorLost.src = s.src := rfl
@[simp] theorem State.cursorLost_srcLen (s : State) :
    s.cursorLost.srcLen = s.srcLen := rfl
@[simp] theorem State.cursorLost_answers (s : State) :
    s.cursorLost.answers = s.answers := rfl
@[simp] theorem State.cursorLost_reads (s : State) :
    s.cursorLost.reads = s.reads := rfl
@[simp] theorem State.cursorLost_d (s : State) :
    s.cursorLost.d = s.d := rfl
@[simp] theorem State.cursorLost_seq (s : State) :
    s.cursorLost.seq = s.seq := rfl
@[simp] theorem State.cursorLost_isOpen (s : State) :
    s.cursorLost.isOpen = s.isOpen := rfl
@[simp] theorem State.cursorLost_bvalid (s : State) :
    s.cursorLost.bvalid = false := rfl
@[simp] theorem State.cursorLost_ferr (s : State) :
    s.cursorLost.ferr = s.ferr := rfl
@[simp] theorem State.cursorLost_errlog (s : State) :
    s.cursorLost.errlog = s.errlog := rfl
@[simp] theorem State.cursorLost_lasterr (s : State) :
    s.cursorLost.lasterr = s.lasterr := rfl
@[simp] theorem State.cursorLost_lastcmd (s : State) :
    s.cursorLost.lastcmd = s.lastcmd := rfl
@[simp] theorem State.cursorLost_lastseq (s : State) :
    s.cursorLost.lastseq = s.lastseq := rfl
@[simp] theorem State.cursorLost_version (s : State) :
    s.cursorLost.version = s.version := rfl
@[simp] theorem State.cursorLost_channels (s : State) :
    s.cursorLost.channels = s.channels := rfl
@[simp] theorem State.cursorLost_bitsps (s : State) :
    s.cursorLost.bitsps = s.bitsps := rfl
@[simp] theorem State.cursorLost_lagsel (s : State) :
    s.cursorLost.lagsel = s.lagsel := rfl
@[simp] theorem State.cursorLost_msround (s : State) :
    s.cursorLost.msround = s.msround := rfl
@[simp] theorem State.cursorLost_win (s : State) :
    s.cursorLost.win = s.win := rfl
@[simp] theorem State.cursorLost_bitpos (s : State) :
    s.cursorLost.bitpos = s.bitpos := rfl
@[simp] theorem State.cursorLost_srcpos (s : State) :
    s.cursorLost.srcpos = s.srcpos := rfl
@[simp] theorem State.cursorLost_furthest (s : State) :
    s.cursorLost.furthest = s.furthest := rfl
@[simp] theorem State.cursorLost_srcsize (s : State) :
    s.cursorLost.srcsize = s.srcsize := rfl
@[simp] theorem State.cursorLost_rk (s : State) :
    s.cursorLost.rk = s.rk := rfl
@[simp] theorem State.cursorLost_rksum (s : State) :
    s.cursorLost.rksum = s.rksum := rfl
@[simp] theorem State.cursorLost_crcacc (s : State) :
    s.cursorLost.crcacc = s.crcacc := rfl
@[simp] theorem State.cursorLost_crcstored (s : State) :
    s.cursorLost.crcstored = s.crcstored := rfl
@[simp] theorem State.cursorLost_silcnt (s : State) :
    s.cursorLost.silcnt = s.silcnt := rfl
@[simp] theorem State.cursorLost_filters (s : State) :
    s.cursorLost.filters = s.filters := rfl

/-! ### flushAll -/

@[simp] theorem State.flushAll_cfg (s : State) :
    s.flushAll.cfg = s.cfg := rfl
@[simp] theorem State.flushAll_inbox (s : State) :
    s.flushAll.inbox = s.inbox := rfl
@[simp] theorem State.flushAll_responses (s : State) :
    s.flushAll.responses = s.responses := rfl
@[simp] theorem State.flushAll_out (s : State) :
    s.flushAll.out = s.out := rfl
@[simp] theorem State.flushAll_src (s : State) :
    s.flushAll.src = s.src := rfl
@[simp] theorem State.flushAll_srcLen (s : State) :
    s.flushAll.srcLen = s.srcLen := rfl
@[simp] theorem State.flushAll_answers (s : State) :
    s.flushAll.answers = s.answers := rfl
@[simp] theorem State.flushAll_reads (s : State) :
    s.flushAll.reads = s.reads := rfl
@[simp] theorem State.flushAll_d (s : State) :
    s.flushAll.d = s.d := rfl
@[simp] theorem State.flushAll_seq (s : State) :
    s.flushAll.seq = s.seq := rfl
@[simp] theorem State.flushAll_isOpen (s : State) :
    s.flushAll.isOpen = s.isOpen := rfl
@[simp] theorem State.flushAll_bvalid (s : State) :
    s.flushAll.bvalid = s.bvalid := rfl
@[simp] theorem State.flushAll_ferr (s : State) :
    s.flushAll.ferr = s.ferr := rfl
@[simp] theorem State.flushAll_errlog (s : State) :
    s.flushAll.errlog = s.errlog := rfl
@[simp] theorem State.flushAll_lasterr (s : State) :
    s.flushAll.lasterr = s.lasterr := rfl
@[simp] theorem State.flushAll_lastcmd (s : State) :
    s.flushAll.lastcmd = s.lastcmd := rfl
@[simp] theorem State.flushAll_lastseq (s : State) :
    s.flushAll.lastseq = s.lastseq := rfl
@[simp] theorem State.flushAll_version (s : State) :
    s.flushAll.version = s.version := rfl
@[simp] theorem State.flushAll_channels (s : State) :
    s.flushAll.channels = s.channels := rfl
@[simp] theorem State.flushAll_bitsps (s : State) :
    s.flushAll.bitsps = s.bitsps := rfl
@[simp] theorem State.flushAll_lagsel (s : State) :
    s.flushAll.lagsel = s.lagsel := rfl
@[simp] theorem State.flushAll_msround (s : State) :
    s.flushAll.msround = s.msround := rfl
@[simp] theorem State.flushAll_win (s : State) :
    s.flushAll.win = s.win := rfl
@[simp] theorem State.flushAll_bitpos (s : State) :
    s.flushAll.bitpos = s.bitpos := rfl
@[simp] theorem State.flushAll_srcpos (s : State) :
    s.flushAll.srcpos = s.srcpos := rfl
@[simp] theorem State.flushAll_furthest (s : State) :
    s.flushAll.furthest = s.furthest := rfl
@[simp] theorem State.flushAll_srcsize (s : State) :
    s.flushAll.srcsize = s.srcsize := rfl
@[simp] theorem State.flushAll_rk (s : State) :
    s.flushAll.rk = s.rk := rfl
@[simp] theorem State.flushAll_rksum (s : State) :
    s.flushAll.rksum = s.rksum := rfl
@[simp] theorem State.flushAll_crcacc (s : State) :
    s.flushAll.crcacc = s.crcacc := rfl
@[simp] theorem State.flushAll_crcstored (s : State) :
    s.flushAll.crcstored = s.crcstored := rfl
@[simp] theorem State.flushAll_silcnt (s : State) :
    s.flushAll.silcnt = s.silcnt := rfl
@[simp] theorem State.flushAll_filters (s : State) :
    s.flushAll.filters = Vector.ofFn fun f => (s.filter f).flush := rfl

/-! ### refill -/

@[simp] theorem State.refill_cfg (s : State) (bs : List Byte) (n : Nat) :
    (s.refill bs n).cfg = s.cfg := rfl
@[simp] theorem State.refill_inbox (s : State) (bs : List Byte) (n : Nat) :
    (s.refill bs n).inbox = s.inbox := rfl
@[simp] theorem State.refill_responses (s : State) (bs : List Byte) (n : Nat) :
    (s.refill bs n).responses = s.responses := rfl
@[simp] theorem State.refill_out (s : State) (bs : List Byte) (n : Nat) :
    (s.refill bs n).out = s.out := rfl
@[simp] theorem State.refill_src (s : State) (bs : List Byte) (n : Nat) :
    (s.refill bs n).src = s.src := rfl
@[simp] theorem State.refill_srcLen (s : State) (bs : List Byte) (n : Nat) :
    (s.refill bs n).srcLen = s.srcLen := rfl
@[simp] theorem State.refill_answers (s : State) (bs : List Byte) (n : Nat) :
    (s.refill bs n).answers = s.answers := rfl
@[simp] theorem State.refill_reads (s : State) (bs : List Byte) (n : Nat) :
    (s.refill bs n).reads = s.reads := rfl
@[simp] theorem State.refill_d (s : State) (bs : List Byte) (n : Nat) :
    (s.refill bs n).d = s.d := rfl
@[simp] theorem State.refill_seq (s : State) (bs : List Byte) (n : Nat) :
    (s.refill bs n).seq = s.seq := rfl
@[simp] theorem State.refill_isOpen (s : State) (bs : List Byte) (n : Nat) :
    (s.refill bs n).isOpen = s.isOpen := rfl
@[simp] theorem State.refill_bvalid (s : State) (bs : List Byte) (n : Nat) :
    (s.refill bs n).bvalid = s.bvalid := rfl
@[simp] theorem State.refill_ferr (s : State) (bs : List Byte) (n : Nat) :
    (s.refill bs n).ferr = s.ferr := rfl
@[simp] theorem State.refill_errlog (s : State) (bs : List Byte) (n : Nat) :
    (s.refill bs n).errlog = s.errlog := rfl
@[simp] theorem State.refill_lasterr (s : State) (bs : List Byte) (n : Nat) :
    (s.refill bs n).lasterr = s.lasterr := rfl
@[simp] theorem State.refill_lastcmd (s : State) (bs : List Byte) (n : Nat) :
    (s.refill bs n).lastcmd = s.lastcmd := rfl
@[simp] theorem State.refill_lastseq (s : State) (bs : List Byte) (n : Nat) :
    (s.refill bs n).lastseq = s.lastseq := rfl
@[simp] theorem State.refill_version (s : State) (bs : List Byte) (n : Nat) :
    (s.refill bs n).version = s.version := rfl
@[simp] theorem State.refill_channels (s : State) (bs : List Byte) (n : Nat) :
    (s.refill bs n).channels = s.channels := rfl
@[simp] theorem State.refill_bitsps (s : State) (bs : List Byte) (n : Nat) :
    (s.refill bs n).bitsps = s.bitsps := rfl
@[simp] theorem State.refill_lagsel (s : State) (bs : List Byte) (n : Nat) :
    (s.refill bs n).lagsel = s.lagsel := rfl
@[simp] theorem State.refill_msround (s : State) (bs : List Byte) (n : Nat) :
    (s.refill bs n).msround = s.msround := rfl
@[simp] theorem State.refill_win (s : State) (bs : List Byte) (n : Nat) :
    (s.refill bs n).win = s.win.drop s.fillDrop ++ bs := rfl
@[simp] theorem State.refill_bitpos (s : State) (bs : List Byte) (n : Nat) :
    (s.refill bs n).bitpos = BitVec.ofNat 32 (s.bitpos.toNat - 8 * s.fillDrop) := rfl
@[simp] theorem State.refill_srcpos (s : State) (bs : List Byte) (n : Nat) :
    (s.refill bs n).srcpos = BitVec.ofNat 32 (s.srcpos.toNat + n) := rfl
@[simp] theorem State.refill_furthest (s : State) (bs : List Byte) (n : Nat) :
    (s.refill bs n).furthest = BitVec.ofNat 32 (max s.furthest.toNat (s.srcpos.toNat + n)) := rfl
@[simp] theorem State.refill_srcsize (s : State) (bs : List Byte) (n : Nat) :
    (s.refill bs n).srcsize = s.srcsize := rfl
@[simp] theorem State.refill_rk (s : State) (bs : List Byte) (n : Nat) :
    (s.refill bs n).rk = s.rk := rfl
@[simp] theorem State.refill_rksum (s : State) (bs : List Byte) (n : Nat) :
    (s.refill bs n).rksum = s.rksum := rfl
@[simp] theorem State.refill_crcacc (s : State) (bs : List Byte) (n : Nat) :
    (s.refill bs n).crcacc = s.crcacc := rfl
@[simp] theorem State.refill_crcstored (s : State) (bs : List Byte) (n : Nat) :
    (s.refill bs n).crcstored = s.crcstored := rfl
@[simp] theorem State.refill_silcnt (s : State) (bs : List Byte) (n : Nat) :
    (s.refill bs n).silcnt = s.silcnt := rfl
@[simp] theorem State.refill_filters (s : State) (bs : List Byte) (n : Nat) :
    (s.refill bs n).filters = s.filters := rfl

/-! ### newWindow -/

@[simp] theorem State.newWindow_cfg (s : State) (pos n bi : Nat) (bs : List Byte) :
    (s.newWindow pos n bi bs).cfg = s.cfg := rfl
@[simp] theorem State.newWindow_inbox (s : State) (pos n bi : Nat) (bs : List Byte) :
    (s.newWindow pos n bi bs).inbox = s.inbox := rfl
@[simp] theorem State.newWindow_responses (s : State) (pos n bi : Nat) (bs : List Byte) :
    (s.newWindow pos n bi bs).responses = s.responses := rfl
@[simp] theorem State.newWindow_out (s : State) (pos n bi : Nat) (bs : List Byte) :
    (s.newWindow pos n bi bs).out = s.out := rfl
@[simp] theorem State.newWindow_src (s : State) (pos n bi : Nat) (bs : List Byte) :
    (s.newWindow pos n bi bs).src = s.src := rfl
@[simp] theorem State.newWindow_srcLen (s : State) (pos n bi : Nat) (bs : List Byte) :
    (s.newWindow pos n bi bs).srcLen = s.srcLen := rfl
@[simp] theorem State.newWindow_answers (s : State) (pos n bi : Nat) (bs : List Byte) :
    (s.newWindow pos n bi bs).answers = s.answers := rfl
@[simp] theorem State.newWindow_reads (s : State) (pos n bi : Nat) (bs : List Byte) :
    (s.newWindow pos n bi bs).reads = s.reads := rfl
@[simp] theorem State.newWindow_d (s : State) (pos n bi : Nat) (bs : List Byte) :
    (s.newWindow pos n bi bs).d = s.d := rfl
@[simp] theorem State.newWindow_seq (s : State) (pos n bi : Nat) (bs : List Byte) :
    (s.newWindow pos n bi bs).seq = s.seq := rfl
@[simp] theorem State.newWindow_isOpen (s : State) (pos n bi : Nat) (bs : List Byte) :
    (s.newWindow pos n bi bs).isOpen = s.isOpen := rfl
@[simp] theorem State.newWindow_bvalid (s : State) (pos n bi : Nat) (bs : List Byte) :
    (s.newWindow pos n bi bs).bvalid = true := rfl
@[simp] theorem State.newWindow_ferr (s : State) (pos n bi : Nat) (bs : List Byte) :
    (s.newWindow pos n bi bs).ferr = s.ferr := rfl
@[simp] theorem State.newWindow_errlog (s : State) (pos n bi : Nat) (bs : List Byte) :
    (s.newWindow pos n bi bs).errlog = s.errlog := rfl
@[simp] theorem State.newWindow_lasterr (s : State) (pos n bi : Nat) (bs : List Byte) :
    (s.newWindow pos n bi bs).lasterr = s.lasterr := rfl
@[simp] theorem State.newWindow_lastcmd (s : State) (pos n bi : Nat) (bs : List Byte) :
    (s.newWindow pos n bi bs).lastcmd = s.lastcmd := rfl
@[simp] theorem State.newWindow_lastseq (s : State) (pos n bi : Nat) (bs : List Byte) :
    (s.newWindow pos n bi bs).lastseq = s.lastseq := rfl
@[simp] theorem State.newWindow_version (s : State) (pos n bi : Nat) (bs : List Byte) :
    (s.newWindow pos n bi bs).version = s.version := rfl
@[simp] theorem State.newWindow_channels (s : State) (pos n bi : Nat) (bs : List Byte) :
    (s.newWindow pos n bi bs).channels = s.channels := rfl
@[simp] theorem State.newWindow_bitsps (s : State) (pos n bi : Nat) (bs : List Byte) :
    (s.newWindow pos n bi bs).bitsps = s.bitsps := rfl
@[simp] theorem State.newWindow_lagsel (s : State) (pos n bi : Nat) (bs : List Byte) :
    (s.newWindow pos n bi bs).lagsel = s.lagsel := rfl
@[simp] theorem State.newWindow_msround (s : State) (pos n bi : Nat) (bs : List Byte) :
    (s.newWindow pos n bi bs).msround = s.msround := rfl
@[simp] theorem State.newWindow_win (s : State) (pos n bi : Nat) (bs : List Byte) :
    (s.newWindow pos n bi bs).win = bs := rfl
@[simp] theorem State.newWindow_bitpos (s : State) (pos n bi : Nat) (bs : List Byte) :
    (s.newWindow pos n bi bs).bitpos = BitVec.ofNat 32 bi := rfl
@[simp] theorem State.newWindow_srcpos (s : State) (pos n bi : Nat) (bs : List Byte) :
    (s.newWindow pos n bi bs).srcpos = BitVec.ofNat 32 (pos + n) := rfl
@[simp] theorem State.newWindow_furthest (s : State) (pos n bi : Nat) (bs : List Byte) :
    (s.newWindow pos n bi bs).furthest = BitVec.ofNat 32 (max s.furthest.toNat (pos + n)) := rfl
@[simp] theorem State.newWindow_srcsize (s : State) (pos n bi : Nat) (bs : List Byte) :
    (s.newWindow pos n bi bs).srcsize = s.srcsize := rfl
@[simp] theorem State.newWindow_rk (s : State) (pos n bi : Nat) (bs : List Byte) :
    (s.newWindow pos n bi bs).rk = s.rk := rfl
@[simp] theorem State.newWindow_rksum (s : State) (pos n bi : Nat) (bs : List Byte) :
    (s.newWindow pos n bi bs).rksum = s.rksum := rfl
@[simp] theorem State.newWindow_crcacc (s : State) (pos n bi : Nat) (bs : List Byte) :
    (s.newWindow pos n bi bs).crcacc = s.crcacc := rfl
@[simp] theorem State.newWindow_crcstored (s : State) (pos n bi : Nat) (bs : List Byte) :
    (s.newWindow pos n bi bs).crcstored = s.crcstored := rfl
@[simp] theorem State.newWindow_silcnt (s : State) (pos n bi : Nat) (bs : List Byte) :
    (s.newWindow pos n bi bs).silcnt = s.silcnt := rfl
@[simp] theorem State.newWindow_filters (s : State) (pos n bi : Nat) (bs : List Byte) :
    (s.newWindow pos n bi bs).filters = s.filters := rfl

end Sys2Proof.Machine
end

