-- ==== Sys2Proof/Laws/Ops.lean ====
section
/-! SUPPORT. One spec lemma for each shared operation: what it can do, cited instead of unfolding it. -/

namespace Sys2Proof.Machine

/-! ### Registers and filter instances -/

@[simp] theorem reg_setReg_same (s : State) (i : Reg) (v : Word) : (s.setReg i v).reg i = v := by
  simp [State.reg, Vector.get_eq_getElem]

theorem reg_setReg_of_ne (s : State) {i j : Reg} (v : Word) (h : j ≠ i) : (s.setReg i v).reg j = s.reg j := by
  have h' : i.val ≠ j.val := fun e => h (Fin.ext e.symm)
  simp [State.reg, Vector.get_eq_getElem, Vector.getElem_set_ne, h']

/-- A register reads the same in two states with the same registers. -/
theorem reg_congr {s t : State} (h : t.d = s.d) (i : Reg) : t.reg i = s.reg i := by simp [State.reg, h]

@[simp] theorem reg_complete (s : State) (v : Word) (i : Reg) : (s.complete v).reg i = s.reg i := rfl
@[simp] theorem reg_raise (s : State) (e : Err) (w : Word) (i : Reg) : (s.raise e w).reg i = s.reg i := rfl
@[simp] theorem reg_completeReg_same (s : State) (i : Reg) (v : Word) : (s.completeReg i v).reg i = v :=
  reg_setReg_same s i v

theorem reg_completeReg_of_ne (s : State) {i j : Reg} (v : Word) (h : j ≠ i) :
    (s.completeReg i v).reg j = s.reg j := reg_setReg_of_ne s v h

@[simp] theorem filter_setFilter_same (s : State) (f : Fin 8) (x : Filter) : (s.setFilter f x).filter f = x := by
  simp [State.filter, Vector.get_eq_getElem]

theorem filter_setFilter_of_ne (s : State) {f g : Fin 8} (x : Filter) (h : g ≠ f) :
    (s.setFilter f x).filter g = s.filter g := by
  have h' : f.val ≠ g.val := fun e => h (Fin.ext e.symm)
  simp [State.filter, Vector.get_eq_getElem, Vector.getElem_set_ne, h']

@[simp] theorem filter_flushAll (s : State) (f : Fin 8) : s.flushAll.filter f = (s.filter f).flush := by
  simp [State.filter, Vector.get_eq_getElem]

/-- An instance reads the same in two states with the same instances. -/
theorem filter_congr {s t : State} (h : t.filters = s.filters) (f : Fin 8) : t.filter f = s.filter f := by
  simp [State.filter, h]

/-! ### Checks and errors -/

@[simp] theorem firstError_nil : firstError [] = none := rfl

@[simp] theorem firstError_cons (b : Bool) (e : Err) (rest : List (Bool × Err)) :
    firstError ((b, e) :: rest) = if b then some e else firstError rest := rfl

/-- Every check passes exactly when no check fails. -/
theorem firstError_eq_none (cs : List (Bool × Err)) : firstError cs = none ↔ ∀ c ∈ cs, c.1 = false := by
  induction cs with
  | nil => simp
  | cons c rest ih => obtain ⟨b, e⟩ := c; cases b <;> simp [ih]

/-- The error raised is that of a failing check. -/
theorem firstError_mem {cs : List (Bool × Err)} {e : Err} (h : firstError cs = some e) : (true, e) ∈ cs := by
  induction cs with
  | nil => simp at h
  | cons c rest ih =>
    obtain ⟨b, e'⟩ := c
    cases b with
    | true => simp only [firstError_cons, if_true, Option.some.injEq] at h; simp [h]
    | false => simp only [firstError_cons, Bool.false_eq_true, if_false] at h; exact .tail _ (ih h)

theorem checked_pass {s : State} {w : Word} {cs : List (Bool × Err)} (go : Result) (h : firstError cs = none) :
    checked s w cs go = go := by simp [checked, h]

theorem checked_fail {s : State} {w : Word} {cs : List (Bool × Err)} {e : Err} (go : Result)
    (h : firstError cs = some e) : checked s w cs go = .next (s.raise e w) := by simp [checked, h]

/-- A checked command that answers raised the first failing check, or passed them all and went on. -/
theorem checked_next {s t : State} {w : Word} {cs : List (Bool × Err)} {go : Result}
    (h : checked s w cs go = .next t) :
    (∃ e, firstError cs = some e ∧ t = s.raise e w) ∨ (firstError cs = none ∧ go = .next t) := by
  unfold checked at h
  split at h
  · next e he => exact .inl ⟨e, he, by simpa using h.symm⟩
  · next he => exact .inr ⟨he, h⟩

/-- A checked command stops only where what it goes on with stops. -/
theorem checked_answered {s : State} {w : Word} {cs : List (Bool × Err)} {go : Result} (h : Answered go) :
    Answered (checked s w cs go) := by
  unfold checked
  split
  · exact ⟨_, rfl⟩
  · exact h

/-! ### The byte source -/

theorem Memory.readBytes_length (m : Memory) (n : Nat) : ∀ pos, (m.readBytes pos n).length = n := by
  induction n with
  | zero => intro pos; rfl
  | succ n ih => intro pos; simp [Memory.readBytes, ih]

theorem Memory.readBytes_getElem? (m : Memory) (n : Nat) :
    ∀ pos i, i < n → (m.readBytes pos n)[i]? = some (m.read (pos + i)) := by
  induction n with
  | zero => intro pos i h; omega
  | succ n ih =>
    intro pos i h
    cases i with
    | zero => simp [Memory.readBytes]
    | succ i =>
      simp only [Memory.readBytes, List.getElem?_cons_succ]
      rw [ih (pos + 1) i (by omega)]
      congr 2; omega

/-- Reading on: the bytes from `pos` split at any point. -/
theorem Memory.readBytes_add (m : Memory) (a : Nat) :
    ∀ pos b, m.readBytes pos (a + b) = m.readBytes pos a ++ m.readBytes (pos + a) b := by
  induction a with
  | zero => intro pos b; simp [Memory.readBytes]
  | succ a ih =>
    intro pos b
    have e : a + 1 + b = (a + b) + 1 := by omega
    rw [e]
    simp only [Memory.readBytes, List.cons_append, List.cons.injEq, true_and]
    rw [ih (pos + 1) b]
    congr 2; omega

theorem Memory.readBytes_drop (m : Memory) (pos n k : Nat) :
    (m.readBytes pos n).drop k = m.readBytes (pos + k) (n - k) := by
  rcases Nat.le_total k n with h | h
  · obtain ⟨b, rfl⟩ := Nat.exists_eq_add_of_le h
    rw [Memory.readBytes_add, List.drop_append, Memory.readBytes_length]
    simp [List.drop_eq_nil_of_le, Memory.readBytes_length]
  · have e : n - k = 0 := by omega
    rw [e, List.drop_eq_nil_of_le (by rw [Memory.readBytes_length]; exact h)]
    rfl

/-- A byte just written reads back. -/
theorem Memory.read_write_same (m : Memory) (a : Nat) (b : Byte)
    (hs : m.Pairwise (fun x y => x.1 < y.1)) : (m.write a b).read a = b := by
  induction m with
  | nil => unfold Memory.write; split <;> simp_all [Memory.read]
  | cons c rest ih =>
    obtain ⟨k, v⟩ := c
    have hk := List.pairwise_cons.mp hs
    have absent : ∀ (l : Memory), (∀ c ∈ l, a < c.1) → l.read a = 0#8 := by
      intro l hl
      induction l with
      | nil => rfl
      | cons d l ihl =>
        obtain ⟨k', v'⟩ := d
        have h1 : a < k' := hl (k', v') (by simp)
        simp only [Memory.read]
        rw [if_neg (by omega)]
        exact ihl fun c hc => hl c (by simp [hc])
    unfold Memory.write
    split
    · next h =>
      split
      · next hb =>
        subst hb
        apply absent
        intro c hc
        rcases List.mem_cons.mp hc with rfl | hc
        · exact h
        · exact Nat.lt_trans h (hk.1 c hc)
      · simp [Memory.read]
    · next h =>
      split
      · next hk' =>
        split
        · next hb =>
          subst hb
          exact absent rest fun c hc => by have := hk.1 c hc; simp only at this; omega
        · simp [Memory.read]
      · next hk' =>
        simp only [Memory.read]
        rw [if_neg hk']
        exact ih hk.2

/-- Writing one byte leaves every other address as it was. -/
theorem Memory.read_write_other (m : Memory) {a x : Nat} (b : Byte) (hx : x ≠ a) :
    (m.write a b).read x = m.read x := by
  induction m with
  | nil => unfold Memory.write; split <;> simp [Memory.read, hx]
  | cons c rest ih =>
    obtain ⟨k, v⟩ := c
    unfold Memory.write
    split
    · split <;> simp [Memory.read, hx]
    · split
      · next hk =>
        subst hk
        split <;> simp [Memory.read, hx]
      · simp only [Memory.read, ih]

theorem Memory.write_mem {m : Memory} {a : Nat} {b : Byte} {c : Host.Cell} (h : c ∈ m.write a b) :
    c = (a, b) ∨ c ∈ m := by
  induction m with
  | nil => unfold Memory.write at h; split at h <;> simp_all
  | cons d rest ih =>
    obtain ⟨k, v⟩ := d
    unfold Memory.write at h
    split at h
    · split at h
      · exact .inr h
      · rcases List.mem_cons.mp h with rfl | h
        · exact .inl rfl
        · exact .inr h
    · split at h
      · split at h
        · exact .inr (.tail _ h)
        · rcases List.mem_cons.mp h with rfl | h
          · exact .inl rfl
          · exact .inr (.tail _ h)
      · rcases List.mem_cons.mp h with rfl | h
        · exact .inr (.head _)
        · rcases ih h with h | h
          · exact .inl h
          · exact .inr (.tail _ h)

/-- Writing keeps the canonical form. -/
theorem Memory.write_wf {m : Memory} (h : m.wf) (a : Nat) (b : Byte) : (m.write a b).wf := by
  induction m with
  | nil => unfold Memory.write; split <;> simp_all [Memory.wf]
  | cons c rest ih =>
    obtain ⟨k, v⟩ := c
    obtain ⟨hp, hz⟩ := h
    obtain ⟨hk, hr⟩ := List.pairwise_cons.mp hp
    have hrest : Memory.wf rest := ⟨hr, fun c hc => hz c (.tail _ hc)⟩
    unfold Memory.write
    split
    · next hlt =>
      split
      · exact ⟨hp, hz⟩
      · next hb =>
        refine ⟨List.pairwise_cons.mpr ⟨?_, hp⟩, ?_⟩
        · intro c hc
          rcases List.mem_cons.mp hc with rfl | hc
          · exact hlt
          · exact Nat.lt_trans hlt (hk c hc)
        · intro c hc
          rcases List.mem_cons.mp hc with rfl | hc
          · exact hb
          · exact hz c hc
    · next hlt =>
      split
      · next heq =>
        subst heq
        split
        · exact hrest
        · next hb =>
          refine ⟨List.pairwise_cons.mpr ⟨hk, hr⟩, ?_⟩
          intro c hc
          rcases List.mem_cons.mp hc with rfl | hc
          · exact hb
          · exact hz c (.tail _ hc)
      · next hne =>
        have ih' := ih hrest
        refine ⟨List.pairwise_cons.mpr ⟨?_, ih'.1⟩, ?_⟩
        · intro c hc
          rcases Memory.write_mem hc with rfl | hc
          · simp only; omega
          · exact hk c hc
        · intro c hc
          rcases List.mem_cons.mp hc with rfl | hc
          · exact hz _ (.head _)
          · exact ih'.2 c hc

/-- A source built from a list of bytes is canonical and lies within the list's length. -/
theorem Memory.ofBytes_wf (bs : List Byte) :
    ∀ base, (Memory.ofBytes base bs).wf ∧ ∀ c ∈ Memory.ofBytes base bs, base ≤ c.1 ∧ c.1 < base + bs.length := by
  induction bs with
  | nil => intro base; simp [Memory.ofBytes, Memory.wf]
  | cons b bs ih =>
    intro base
    obtain ⟨⟨hp, hz⟩, hb⟩ := ih (base + 1)
    unfold Memory.ofBytes
    split
    · exact ⟨⟨hp, hz⟩, fun c hc => by have := hb c hc; simp only [List.length_cons]; omega⟩
    · next hne =>
      refine ⟨⟨List.pairwise_cons.mpr ⟨fun c hc => ?_, hp⟩, fun c hc => ?_⟩, fun c hc => ?_⟩
      · have := hb c hc; simp only; omega
      · rcases List.mem_cons.mp hc with rfl | hc
        · exact hne
        · exact hz c hc
      · rcases List.mem_cons.mp hc with rfl | hc
        · simp
        · have := hb c hc; simp only [List.length_cons]; omega

theorem Memory.reset_wf : State.reset.src.wf := by decide

/-- A read that delivers gives exactly the bytes asked for, all of them inside the source (R61). -/
theorem State.srcRead_ok {s : State} {pos n : Nat} {bs : List Byte} (h : s.srcRead pos n = .ok bs) :
    s.nextAnswer = .ok ∧ pos + n ≤ s.srcLen ∧ bs = s.src.readBytes pos n := by
  unfold State.srcRead at h
  split at h
  · next ha =>
    split at h
    · next hle => exact ⟨ha, hle, by simpa using h.symm⟩
    · simp at h
  · simp at h
  · simp at h

/-- The byte source does not answer exactly when its next answer is `never`. -/
theorem State.srcRead_never {s : State} {pos n : Nat} : s.srcRead pos n = .never ↔ s.nextAnswer = .never := by
  unfold State.srcRead
  split <;> simp_all
  split <;> simp

/-! ### Reset -/

@[simp] theorem State.hwReset_cfg (s : State) : s.hwReset.cfg = s.cfg := rfl
@[simp] theorem State.hwReset_out (s : State) : s.hwReset.out = s.out := rfl
@[simp] theorem State.hwReset_src (s : State) : s.hwReset.src = s.src := rfl
@[simp] theorem State.hwReset_srcLen (s : State) : s.hwReset.srcLen = s.srcLen := rfl

end Sys2Proof.Machine
end

