-- ==== Sys2Proof/Laws/Filter.lean ====
section
/-! SUPPORT. What the parts of a filter step give: the ranges, the lengths and the single elements (R141 to R148),
and that a flushed instance and a stepped one have their declared sizes (R41). -/

namespace Sys2Proof.Machine

/-! ### Arithmetic -/

theorem sgn_eq_sign (z : Int) : sgn z = z.sign := by
  unfold sgn
  rcases Int.lt_trichotomy z 0 with h | h | h
  · rw [if_pos h, Int.sign_eq_neg_one_of_neg h]
  · subst h; rfl
  · rw [if_neg (by omega), if_neg (by omega), Int.sign_eq_one_of_pos h]

theorem sat16_bounds (z : Int) : -32768 ≤ sat16 z ∧ sat16 z ≤ 32767 := by
  unfold sat16; split
  · omega
  · split <;> omega

theorem sat16_eq_max_min (z : Int) : sat16 z = max (-32768) (min z 32767) := by
  unfold sat16; split
  · omega
  · split <;> omega

/-- A number a 16-bit pattern holds is kept by `wrap16`. -/
theorem wrap16_toInt {z : Int} (h1 : -32768 ≤ z) (h2 : z ≤ 32767) : (wrap16 z).toInt = z := by
  simp only [wrap16, BitVec.toInt_ofInt, Int.bmod]
  omega

/-- A number a 32-bit pattern holds as signed is kept by `wrap32`. -/
theorem wrap32_toInt {z : Int} (h1 : -2147483648 ≤ z) (h2 : z ≤ 2147483647) : (wrap32 z).toInt = z := by
  simp only [wrap32, BitVec.toInt_ofInt, Int.bmod]
  omega

/-- A number a 32-bit pattern holds as unsigned is kept by `wrap32`. -/
theorem wrap32_toNat {z : Int} (h1 : 0 ≤ z) (h2 : z < 4294967296) : ((wrap32 z).toNat : Int) = z := by
  simp only [wrap32, BitVec.toNat_ofInt]
  omega

@[simp] theorem wrap32_of_toInt (v : Word) : wrap32 v.toInt = v := BitVec.ofInt_toInt

/-- What one wrapped sum takes from another is what it was given, whatever was wrapped between (R164 P1). -/
theorem wrap32_sub_add (v : Word) (p : Int) : wrap32 ((wrap32 (v.toInt - p)).toInt + p) = v := by
  have e : wrap32 ((wrap32 (v.toInt - p)).toInt + p) = wrap32 v.toInt := by
    apply BitVec.eq_of_toInt_eq
    simp only [wrap32, BitVec.toInt_ofInt, Int.bmod_add_bmod]
    congr 1; omega
  rw [e, wrap32_of_toInt]

/-- BUCKET is at most 32767 (R7). -/
theorem bucketOf_le (c : BucketChoice) (a avg : Nat) : bucketOf c a avg ≤ 32767 := by
  cases c
  · simp only [bucketOf, bucketStandard]; split; omega; split; omega; split <;> omega
  · simp only [bucketOf]; split
    · omega
    · have := (Config.otherBucket a avg).isLt; omega

/-- `BUCKET(0, avg) = 0` (R7). -/
@[simp] theorem bucketOf_zero (c : BucketChoice) (avg : Nat) : bucketOf c 0 avg = 0 := by
  cases c <;> simp [bucketOf, bucketStandard]

theorem newDelta_toInt (c : BucketChoice) (sample : Int) (avg : Word) :
    (newDelta c sample avg).toInt = sample.sign * (bucketOf c sample.natAbs avg.toNat : Int) := by
  have hb := bucketOf_le c sample.natAbs avg.toNat
  unfold newDelta
  rw [sgn_eq_sign]
  rcases Int.lt_trichotomy sample 0 with h | h | h
  · rw [Int.sign_eq_neg_one_of_neg h]; apply wrap16_toInt <;> omega
  · subst h; simp [wrap16]
  · rw [Int.sign_eq_one_of_pos h]; apply wrap16_toInt <;> omega

/-- The running average stays in its declared range, and is exact (R41, R147). -/
theorem nextAvg_spec {sample : Int} {avg : Word} (ha : avg.toNat < 2 ^ 31) (hs : sample.natAbs ≤ 2 ^ 31) :
    (nextAvg sample avg).toNat < 2 ^ 31 ∧
      ((nextAvg sample avg).toNat : Int) = avg.toNat + ((sample.natAbs : Int) - avg.toNat).tdiv 16 := by
  have key : 0 ≤ (avg.toNat : Int) + ((sample.natAbs : Int) - avg.toNat).tdiv 16 ∧
      (avg.toNat : Int) + ((sample.natAbs : Int) - avg.toNat).tdiv 16 < 2 ^ 31 := by
    rcases Int.le_total 0 ((sample.natAbs : Int) - avg.toNat) with h | h
    · rw [Int.tdiv_eq_ediv_of_nonneg h]; omega
    · have e : ((sample.natAbs : Int) - avg.toNat).tdiv 16 = -((avg.toNat - (sample.natAbs : Int)) / 16) := by
        rw [← Int.tdiv_eq_ediv_of_nonneg (by omega), ← Int.neg_tdiv]; congr 1; omega
      rw [e]; omega
  have e : ((nextAvg sample avg).toNat : Int) = avg.toNat + ((sample.natAbs : Int) - avg.toNat).tdiv 16 := by
    unfold nextAvg tdiv; exact wrap32_toNat key.1 (by omega)
  refine ⟨?_, e⟩
  have := key.2; rw [← e] at this; omega

/-- A 32-bit sample's magnitude is at most 2^31 (R11). -/
theorem natAbs_toInt_le (v : Word) : v.toInt.natAbs ≤ 2 ^ 31 := by
  have h1 := BitVec.le_toInt v; have h2 := BitVec.toInt_lt (x := v)
  simp at h1 h2; omega

@[simp] theorem halve_toInt (v : BitVec 16) : (halve v).toInt = v.toInt / 2 := by
  have h1 := BitVec.le_toInt v; have h2 := BitVec.toInt_lt (x := v)
  simp at h1 h2
  unfold halve asr
  rw [wrap16_toInt] <;> omega

@[simp] theorem halve_zero : halve 0#16 = 0#16 := by decide

/-! ### Windows -/

/-- Moving an element into a full window keeps its length. -/
theorem shiftIn_length {N : Nat} (v : BitVec 16) {xs : List (BitVec 16)} (h : xs.length = N) :
    (shiftIn N v xs).length = N := by
  unfold shiftIn; rw [List.length_take, List.length_cons]; omega

theorem shiftIn_zero_elem {N : Nat} (hN : 0 < N) (v : BitVec 16) (xs : List (BitVec 16)) :
    (shiftIn N v xs)[0]? = some v := by
  obtain ⟨n, rfl⟩ := Nat.exists_eq_succ_of_ne_zero (Nat.pos_iff_ne_zero.mp hN)
  simp [shiftIn]

theorem shiftIn_succ_elem {N i : Nat} (hi : i + 1 < N) (v : BitVec 16) (xs : List (BitVec 16)) :
    (shiftIn N v xs)[i + 1]? = xs[i]? := by
  simp [shiftIn, hi]

@[simp] theorem decay_length (lags : List Nat) (ds : List (BitVec 16)) : (decay lags ds).length = ds.length := by
  unfold decay
  induction lags generalizing ds with
  | nil => rfl
  | cons l ls ih => simp [ih]

/-- Decay halves exactly the elements of its lag set, once each (R148). -/
theorem decay_elem (lags : List Nat) (hn : lags.Nodup) (ds : List (BitVec 16)) (i : Nat) :
    (decay lags ds)[i]? = if i ∈ lags then ds[i]?.map halve else ds[i]? := by
  unfold decay
  induction lags generalizing ds with
  | nil => simp
  | cons l ls ih =>
    obtain ⟨hl, hls⟩ := List.nodup_cons.mp hn
    rw [List.foldl_cons, ih hls, List.getElem?_modify]
    by_cases e : l = i
    · subst e; simp [hl]
    · have e' : i ≠ l := fun h => e h.symm
      simp [e, e']

theorem lagSet_nodup (lagsel : BitVec 1) : (lagSet lagsel).Nodup := by
  unfold lagSet; split <;> decide

/-- No lag is 0: the element just written is not decayed (R148). -/
theorem zero_notMem_lagSet (lagsel : BitVec 1) : 0 ∉ lagSet lagsel := by
  unfold lagSet; split <;> decide

/-! ### Instances -/

@[simp] theorem Filter.flush_ftype (x : Filter) : x.flush.ftype = x.ftype := rfl
@[simp] theorem Filter.flush_forder (x : Filter) : x.flush.forder = x.forder := rfl
@[simp] theorem Filter.flush_fshift (x : Filter) : x.flush.fshift = x.fshift := rfl
@[simp] theorem Filter.flush_fmul (x : Filter) : x.flush.fmul = x.fmul := rfl
@[simp] theorem Filter.flush_avg (x : Filter) : x.flush.avg = 0 := rfl
@[simp] theorem Filter.flush_last (x : Filter) : x.flush.last = 0 := rfl

@[simp] theorem Filter.flush_taps (x : Filter) : x.flush.taps = x.taps := rfl

theorem Filter.flush_sized (x : Filter) : x.flush.Sized := by
  unfold Filter.Sized; rw [Filter.flush_taps]; simp [Filter.flush]

@[simp] theorem Filter.flush_flush (x : Filter) : x.flush.flush = x.flush := rfl

@[simp] theorem Filter.flush_configOk (p : Params) (x : Filter) : x.flush.configOk p = x.configOk p := rfl

@[simp] theorem Filter.nnUpdate_ftype (p : Params) (l : BitVec 1) (x : Filter) (dir sample : Int) :
    (x.nnUpdate p l dir sample).ftype = x.ftype := rfl
@[simp] theorem Filter.nnUpdate_forder (p : Params) (l : BitVec 1) (x : Filter) (dir sample : Int) :
    (x.nnUpdate p l dir sample).forder = x.forder := rfl
@[simp] theorem Filter.nnUpdate_fshift (p : Params) (l : BitVec 1) (x : Filter) (dir sample : Int) :
    (x.nnUpdate p l dir sample).fshift = x.fshift := rfl
@[simp] theorem Filter.nnUpdate_fmul (p : Params) (l : BitVec 1) (x : Filter) (dir sample : Int) :
    (x.nnUpdate p l dir sample).fmul = x.fmul := rfl
@[simp] theorem Filter.nnUpdate_last (p : Params) (l : BitVec 1) (x : Filter) (dir sample : Int) :
    (x.nnUpdate p l dir sample).last = x.last := rfl

/-- A step of an order-N instance of declared size keeps the size. -/
theorem Filter.nnUpdate_sized (p : Params) (l : BitVec 1) {x : Filter} (dir sample : Int) (h : x.Sized)
    (ht : x.ftype = 1) : (x.nnUpdate p l dir sample).Sized := by
  have e : x.taps = x.forder.toNat := by simp [Filter.taps, ht]
  obtain ⟨h1, h2, h3⟩ := h
  rw [e] at h1 h2 h3
  have e' : (x.nnUpdate p l dir sample).taps = x.forder.toNat := by simp [Filter.taps, ht]
  refine ⟨?_, ?_, ?_⟩ <;> rw [e']
  · simp [Filter.nnUpdate, Filter.adapt, h1, h3]
  · exact shiftIn_length _ h2
  · simp only [Filter.nnUpdate, decay_length]; exact shiftIn_length _ h3

/-- One step of the other direction on the result undoes the first (R164 P1), whatever the instance. -/
theorem Filter.nnd_nnc (p : Params) (l : BitVec 1) (x : Filter) (v : Word) :
    x.nnd p l (x.nnc p l v).1 = (v, (x.nnc p l v).2) := by
  have e := wrap32_sub_add v x.pred
  simp only [Filter.nnd, Filter.nnc, e]

theorem Filter.fod_foc (x : Filter) (v : Word) : x.fod (x.foc v).1 = (v, (x.foc v).2) := by
  have e := wrap32_sub_add v x.foTerm
  simp only [Filter.fod, Filter.foc, e]

theorem Filter.decodeStage_encodeStage (p : Params) (l : BitVec 1) (x : Filter) (v : Word) :
    x.decodeStage p l (x.encodeStage p l v).1 = (v, (x.encodeStage p l v).2) := by
  unfold Filter.decodeStage Filter.encodeStage
  by_cases h1 : x.ftype = 1
  · simp only [if_pos h1]; exact Filter.nnd_nnc p l x v
  · by_cases h2 : x.ftype = 2
    · simp only [if_neg h1, if_pos h2]; exact Filter.fod_foc x v
    · simp only [if_neg h1, if_neg h2]

/-- What every kind of step keeps: the configuration, the declared size, the range of the average (R41). -/
structure Filter.Kept (x y : Filter) : Prop where
  ftype : y.ftype = x.ftype
  forder : y.forder = x.forder
  fshift : y.fshift = x.fshift
  fmul : y.fmul = x.fmul
  sized : x.Sized → y.Sized
  avg : x.avg.toNat < 2 ^ 31 → y.avg.toNat < 2 ^ 31

theorem Filter.Kept.refl (x : Filter) : Filter.Kept x x := ⟨rfl, rfl, rfl, rfl, id, id⟩

theorem Filter.Kept.configOk {x y : Filter} (h : Filter.Kept x y) (p : Params) : y.configOk p = x.configOk p := by
  simp [Filter.configOk, h.ftype, h.forder, h.fshift]

theorem Filter.nnd_kept (p : Params) (l : BitVec 1) {x : Filter} (v : Word) (ht : x.ftype = 1) :
    Filter.Kept x (x.nnd p l v).2 :=
  ⟨rfl, rfl, rfl, rfl, fun h => Filter.nnUpdate_sized p l _ _ h ht,
    fun h => (nextAvg_spec h (natAbs_toInt_le _)).1⟩

theorem Filter.nnc_kept (p : Params) (l : BitVec 1) {x : Filter} (v : Word) (ht : x.ftype = 1) :
    Filter.Kept x (x.nnc p l v).2 :=
  ⟨rfl, rfl, rfl, rfl, fun h => Filter.nnUpdate_sized p l _ _ h ht,
    fun h => (nextAvg_spec h (natAbs_toInt_le _)).1⟩

theorem Filter.fod_kept (x : Filter) (v : Word) : Filter.Kept x (x.fod v).2 := ⟨rfl, rfl, rfl, rfl, id, id⟩
theorem Filter.foc_kept (x : Filter) (v : Word) : Filter.Kept x (x.foc v).2 := ⟨rfl, rfl, rfl, rfl, id, id⟩

theorem Filter.flush_kept (x : Filter) : Filter.Kept x x.flush :=
  ⟨rfl, rfl, rfl, rfl, fun _ => x.flush_sized, fun _ => by simp⟩

theorem Filter.decodeStage_kept (p : Params) (l : BitVec 1) (x : Filter) (v : Word) :
    Filter.Kept x (x.decodeStage p l v).2 := by
  unfold Filter.decodeStage
  split
  · exact Filter.nnd_kept p l v ‹_›
  · split
    · exact x.fod_kept v
    · exact .refl x

theorem Filter.encodeStage_kept (p : Params) (l : BitVec 1) (x : Filter) (v : Word) :
    Filter.Kept x (x.encodeStage p l v).2 := by
  unfold Filter.encodeStage
  split
  · exact Filter.nnc_kept p l v ‹_›
  · split
    · exact x.foc_kept v
    · exact .refl x

theorem Filter.Kept.trans {x y z : Filter} (h : Filter.Kept x y) (h' : Filter.Kept y z) : Filter.Kept x z :=
  ⟨h'.ftype.trans h.ftype, h'.forder.trans h.forder, h'.fshift.trans h.fshift, h'.fmul.trans h.fmul,
    h'.sized ∘ h.sized, h'.avg ∘ h.avg⟩

/-- A cascade keeps of every instance what one step keeps. -/
theorem cascade_kept {stage : Filter → Word → Word × Filter} (hs : ∀ x v, Filter.Kept x (stage x v).2)
    (fs : List (Fin 8)) : ∀ (xs : Vector Filter 8) (v : Word) (f : Fin 8),
      Filter.Kept (xs.get f) ((cascade stage fs xs v).2.get f) := by
  induction fs with
  | nil => intro xs v f; exact .refl _
  | cons g rest ih =>
    intro xs v f
    refine .trans ?_ (ih (xs.set g.val (stage (xs.get g) v).2 g.isLt) _ f)
    by_cases e : g = f
    · subst e; simpa [Vector.get_eq_getElem] using hs (xs.get g) v
    · have e' : g.val ≠ f.val := fun h => e (Fin.ext h)
      simpa [Vector.get_eq_getElem, Vector.getElem_set_ne, e'] using Filter.Kept.refl (xs.get f)

/-- A cascade leaves the instances it does not name. -/
theorem cascade_other (stage : Filter → Word → Word × Filter) (fs : List (Fin 8)) :
    ∀ (xs : Vector Filter 8) (v : Word) (f : Fin 8), f ∉ fs → (cascade stage fs xs v).2.get f = xs.get f := by
  induction fs with
  | nil => intro xs v f _; rfl
  | cons g rest ih =>
    intro xs v f hf
    have e : g.val ≠ f.val := fun h => hf (by simp [Fin.ext h])
    rw [cascade, ih _ _ f (fun h => hf (.tail _ h))]
    simp [Vector.get_eq_getElem, Vector.getElem_set_ne, e]

end Sys2Proof.Machine
end

