-- ==== Sys2Proof/Laws/BitReader.lean ====
section
/-! SUPPORT. What the bit sequence, the unary quotient, the Rice code and the refills give (R62, R63, R114, R123,
R124). -/

namespace Sys2Proof.Machine

/-! ### Bits and fields -/

theorem windowBit_le_one (W : Nat) (win : List Byte) (i : Nat) : windowBit W win i ≤ 1 := by
  unfold windowBit; omega

theorem State.bitAt_le_one (s : State) (i : Nat) : s.bitAt i ≤ 1 := windowBit_le_one _ _ _

/-- An n-bit field is below 2^n (R63). -/
theorem State.fieldAt_lt (s : State) (p n : Nat) : s.fieldAt p n < 2 ^ n := by
  induction n with
  | zero => simp [State.fieldAt]
  | succ n ih =>
    have := s.bitAt_le_one (p + n)
    simp only [State.fieldAt]; omega

/-- The field as the sum of R63. -/
theorem State.fieldAt_eq_sum (s : State) (p n : Nat) :
    s.fieldAt p n = ∑ t ∈ Finset.range n, s.bitAt (p + t) * 2 ^ (n - 1 - t) := by
  induction n with
  | zero => rfl
  | succ n ih =>
    rw [State.fieldAt, ih, Finset.sum_range_succ, Finset.mul_sum]
    congr 1
    · apply Finset.sum_congr rfl
      intro t ht
      have ht := Finset.mem_range.mp ht
      obtain ⟨m, e⟩ := Nat.exists_eq_add_of_lt ht
      have e1 : n + 1 - 1 - t = (n - 1 - t) + 1 := by omega
      rw [e1, pow_succ]; ring
    · simp

/-- Dropping whole words from the front of the window moves the bit index by their bits (R62, R123). -/
theorem windowBit_drop {W : Nat} (hW : 0 < W) (win : List Byte) (k i : Nat) :
    windowBit W (win.drop (W * k)) i = windowBit W win (8 * W * k + i) := by
  have e1 : (8 * W * k + i) / (8 * W) = k + i / (8 * W) := by
    rw [Nat.add_comm, Nat.add_mul_div_left _ _ (by omega), Nat.add_comm]
  have e2 : (8 * W * k + i) % (8 * W) = i % (8 * W) := by rw [Nat.add_comm, Nat.add_mul_mod_self_left]
  have e3 : (8 * W * k + i) % 8 = i % 8 := by
    rw [Nat.mul_assoc, Nat.add_comm, Nat.add_mul_mod_self_left]
  have e4 : byteIdx W (8 * W * k + i) = W * k + byteIdx W i := by
    unfold byteIdx; rw [e1, e2, Nat.mul_add]; omega
  unfold windowBit
  rw [List.getElem?_drop, e3, e4]

/-- A bit inside a window of whole words lies in one of its bytes. -/
theorem byteIdx_lt {W n i : Nat} (hW : 0 < W) (hn : n % W = 0) (hi : i < 8 * n) : byteIdx W i < n := by
  obtain ⟨m, rfl⟩ : ∃ m, n = W * m := ⟨n / W, by rw [Nat.mul_div_cancel' (Nat.dvd_of_mod_eq_zero hn)]⟩
  have hq : i / (8 * W) < m := by
    rw [Nat.div_lt_iff_lt_mul (by omega)]
    calc i < 8 * (W * m) := hi
      _ = m * (8 * W) := by ring
  have : W * (i / (8 * W)) + W ≤ W * m := by
    have := Nat.mul_le_mul_left W (Nat.succ_le_of_lt hq)
    rwa [Nat.mul_succ] at this
  unfold byteIdx; omega

/-- Bytes after the end of a window of whole words change none of its bits. -/
theorem windowBit_append {W : Nat} (hW : 0 < W) {win : List Byte} (hn : win.length % W = 0) (more : List Byte)
    {i : Nat} (hi : i < 8 * win.length) : windowBit W (win ++ more) i = windowBit W win i := by
  unfold windowBit
  rw [List.getElem?_append_left (byteIdx_lt hW hn hi)]

/-! ### The Rice code -/

/-- A unary quotient is a run of ones and the 0 that ends it, all inside the `left` bits (R114). -/
theorem State.unary_eq_some {s : State} {left : Nat} :
    ∀ {p q q' p' : Nat}, s.unary p q left = some (q', p') ↔
      ∃ n, n < left ∧ (∀ j, j < n → s.bitAt (p + j) ≠ 0) ∧ s.bitAt (p + n) = 0 ∧ q' = q + n ∧ p' = p + n + 1 := by
  induction left with
  | zero => intro p q q' p'; simp [State.unary]
  | succ left ih =>
    intro p q q' p'
    unfold State.unary
    split
    · next h0 =>
      constructor
      · rintro h; simp only [Option.some.injEq, Prod.mk.injEq] at h
        exact ⟨0, by omega, by simp, by simpa using h0, by omega, by omega⟩
      · rintro ⟨n, hn, hj, hz, rfl, rfl⟩
        cases n with
        | zero => simp
        | succ n => exact absurd (by simpa using h0) (hj 0 (by omega))
    · next h0 =>
      rw [ih]
      constructor
      · rintro ⟨n, hn, hj, hz, rfl, rfl⟩
        refine ⟨n + 1, by omega, fun j hj' => ?_, ?_, by omega, by omega⟩
        · cases j with
          | zero => simpa using h0
          | succ j => have := hj j (by omega); rwa [Nat.add_assoc, Nat.add_comm 1 j] at this
        · rwa [Nat.add_assoc, Nat.add_comm 1 n] at hz
      · rintro ⟨n, hn, hj, hz, rfl, rfl⟩
        cases n with
        | zero => exact absurd (by simpa using hz) h0
        | succ n =>
          refine ⟨n, by omega, fun j hj' => ?_, ?_, by omega, by omega⟩
          · have := hj (j + 1) (by omega); rwa [Nat.add_assoc, Nat.add_comm 1 j]
          · rwa [Nat.add_assoc, Nat.add_comm 1 n]

/-- There is no quotient exactly when no bit of the window is the 0 that ends it. -/
theorem State.unary_eq_none {s : State} {p q left : Nat} :
    s.unary p q left = none ↔ ∀ j, j < left → s.bitAt (p + j) ≠ 0 := by
  induction left generalizing p q with
  | zero => simp [State.unary]
  | succ left ih =>
    unfold State.unary
    split
    · next h0 => simp only [reduceCtorEq, false_iff, not_forall]; exact ⟨0, by omega, by simpa using h0⟩
    · next h0 =>
      rw [ih]
      constructor
      · intro h j hj
        cases j with
        | zero => simpa using h0
        | succ j => have := h j (by omega); rwa [Nat.add_assoc, Nat.add_comm 1 j] at this
      · intro h j hj
        have := h (j + 1) (by omega); rwa [Nat.add_assoc, Nat.add_comm 1 j]

/-- A decoded Rice code lies inside the window (R114). -/
theorem State.riceCode_le {s : State} {k v p : Nat} (h : s.riceCode k = some (v, p)) :
    s.bitpos.toNat ≤ p ∧ p ≤ s.bitsHeld := by
  unfold State.riceCode at h
  split at h
  · simp at h
  · next q p' hu =>
    obtain ⟨n, hn, -, -, -, rfl⟩ := State.unary_eq_some.mp hu
    unfold State.avail at hn
    split at h
    · simp at h
    · simp only [Option.some.injEq, Prod.mk.injEq] at h; omega

/-! ### Refills -/

theorem State.fillDrop_le (s : State) : 8 * s.fillDrop ≤ s.bitpos.toNat := by
  unfold State.fillDrop
  have := Nat.mul_div_le s.bitpos.toNat (8 * s.cfg.streamWordBytes)
  rwa [Nat.mul_assoc] at this

/-- After the drop the cursor is inside the first word (R123). -/
theorem State.bitpos_sub_fillDrop_lt {s : State} (hW : 0 < s.cfg.streamWordBytes) :
    s.bitpos.toNat - 8 * s.fillDrop < 8 * s.cfg.streamWordBytes := by
  have h1 := Nat.div_add_mod s.bitpos.toNat (8 * s.cfg.streamWordBytes)
  have h2 := Nat.mod_lt s.bitpos.toNat (y := 8 * s.cfg.streamWordBytes) (by omega)
  unfold State.fillDrop
  rw [Nat.mul_assoc] at h1
  omega

theorem State.fillCount_le (s : State) : s.fillCount ≤ s.cfg.bufBytes - (s.win.length - s.fillDrop) ∧
    s.fillCount ≤ s.srcsize.toNat - s.srcpos.toNat := by
  have h := Nat.mul_div_le (min (s.cfg.bufBytes - (s.win.length - s.fillDrop)) (s.srcsize.toNat - s.srcpos.toNat))
    s.cfg.streamWordBytes
  unfold State.fillCount; omega

theorem State.fillCount_mod (s : State) : s.fillCount % s.cfg.streamWordBytes = 0 := by
  unfold State.fillCount; exact Nat.mul_mod_right _ _

theorem State.windowCount_le (s : State) (pos : Nat) :
    s.windowCount pos ≤ s.cfg.bufBytes ∧ s.windowCount pos ≤ s.srcsize.toNat - pos := by
  have h := Nat.mul_div_le (min s.cfg.bufBytes (s.srcsize.toNat - pos)) s.cfg.streamWordBytes
  unfold State.windowCount; omega

theorem State.windowCount_mod (s : State) (pos : Nat) : s.windowCount pos % s.cfg.streamWordBytes = 0 := by
  unfold State.windowCount; exact Nat.mul_mod_right _ _

/-- What FILLR and SEEK can answer from their source read on (R124). -/
theorem fillFrom_next {w : Word} {pos bi : Nat} {s t : State} (h : fillFrom w pos bi s = .next t) :
    (s.nextAnswer = .ok ∧ pos + s.windowCount pos ≤ s.srcLen ∧
      t = (s.readDone.newWindow pos (s.windowCount pos) bi (s.src.readBytes pos (s.windowCount pos))).complete 0#32) ∨
    t = s.readDone.cursorLost.raise .ioError w := by
  unfold fillFrom at h
  split at h
  · next bs hb =>
    obtain ⟨h1, h2, rfl⟩ := State.srcRead_ok hb
    exact .inl ⟨h1, h2, by simpa using h.symm⟩
  · exact .inr (by simpa using h.symm)
  · simp at h

/-- FILLR and SEEK stop only where the source never answers (log 6). -/
theorem fillFrom_fault {w : Word} {pos bi : Nat} {s : State} {f : Fault} (h : fillFrom w pos bi s = .fault f) :
    f = .sourceNeverAnswers ∧ s.nextAnswer = .never := by
  unfold fillFrom at h
  split at h
  · simp at h
  · simp at h
  · next hb => exact ⟨(Host.Outcome.fault.inj h).symm, State.srcRead_never.mp hb⟩

/-! ### Rice adaptation -/

/-- One move of k by R121's thresholds. -/
theorem riceStep {k : Nat} (hk : k < 32) (sum lo hi : Nat) :
    (if sum < lo then k - 1 else if hi ≤ sum ∧ k < 26 then k + 1 else k) < 2 ^ 5 ∧
    (if sum < lo then k - 1 else if hi ≤ sum ∧ k < 26 then k + 1 else k) ≤ k + 1 ∧
    k ≤ (if sum < lo then k - 1 else if hi ≤ sum ∧ k < 26 then k + 1 else k) + 1 ∧
    (26 ≤ k → (if sum < lo then k - 1 else if hi ≤ sum ∧ k < 26 then k + 1 else k) ≤ k) := by
  by_cases ha : sum < lo
  · simp only [ha, if_true]; omega
  · by_cases hb : hi ≤ sum ∧ k < 26
    · simp only [ha, hb, and_self, if_true, if_false]; omega
    · simp only [ha, hb, if_false]; omega

/-- The default RICE_ADAPT moves k by at most one and never raises it above 26 (R121). -/
theorem riceAdaptStandard_k (k : BitVec 5) (ksum v : Word) :
    (riceAdaptStandard k ksum v).1.toNat ≤ k.toNat + 1 ∧ k.toNat ≤ (riceAdaptStandard k ksum v).1.toNat + 1 ∧
      (26 ≤ k.toNat → (riceAdaptStandard k ksum v).1.toNat ≤ k.toNat) := by
  have h := riceStep k.isLt ((ksum.toNat + v.toNat - (ksum.toNat + 8) / 16) % 2 ^ 32)
    (if k = 0 then 0 else 2 ^ (k.toNat + 4)) (2 ^ (k.toNat + 5))
  unfold riceAdaptStandard
  rw [BitVec.toNat_ofNat, Nat.mod_eq_of_lt h.1]
  exact h.2

end Sys2Proof.Machine
end

