-- ==== Sys2Proof/Laws/Decode.lean ====
section
/-! SUPPORT. What each field of an encoded word reads, format by format. -/

namespace Sys2Proof

/-- A bit slice of a number that fits a word. -/
theorem field_ofNat {n : Nat} (h : n < 2 ^ 32) (lo len : Nat) :
    field (BitVec.ofNat 32 n) lo len = n / 2 ^ lo % 2 ^ len := by
  have h' : n < 4294967296 := h
  simp [field, Nat.mod_eq_of_lt h']

theorem regField_ofNat {n : Nat} (h : n < 2 ^ 32) (lo : Nat) :
    (regField (BitVec.ofNat 32 n) lo).val = n / 2 ^ lo % 16 := by
  have h' : n < 4294967296 := h
  simp [regField, Nat.mod_eq_of_lt h']

/-- The number of a format R word. -/
theorem encodeR_lt {op : Nat} (h : op < 256) (rd ra rb rc : Reg) (imm8 : Nat) :
    op * 2 ^ 24 + rd.val * 2 ^ 20 + ra.val * 2 ^ 16 + rb.val * 2 ^ 12 + rc.val * 2 ^ 8 + imm8 % 256 < 2 ^ 32 := by
  have := rd.isLt; have := ra.isLt; have := rb.isLt; have := rc.isLt; have := Nat.mod_lt imm8 (y := 256) (by decide)
  omega

theorem encodeI_lt {op : Nat} (h : op < 256) (rd : Reg) (imm : Nat) :
    op * 2 ^ 24 + rd.val * 2 ^ 20 + imm % 65536 < 2 ^ 32 := by
  have := rd.isLt; have := Nat.mod_lt imm (y := 65536) (by decide)
  omega

theorem encodeD_lt {m : Nat} (h : m < 4) (rd : Reg) (n : Nat) :
    0x10 * 2 ^ 24 + rd.val * 2 ^ 20 + m * 2 ^ 18 + n % 256 < 2 ^ 32 := by
  have := rd.isLt; have := Nat.mod_lt n (y := 256) (by decide)
  omega

section formatR
variable {op : Nat} (h : op < 256) (rd ra rb rc : Reg) (n : Nat)
include h

theorem opcode_encodeR : opcodeField (encodeR op rd ra rb rc n) = op := by
  have := encodeR_lt h rd ra rb rc n
  unfold opcodeField encodeR; rw [field_ofNat this]
  have := rd.isLt; have := ra.isLt; have := rb.isLt; have := rc.isLt; have := Nat.mod_lt n (y := 256) (by decide)
  omega

theorem rd_encodeR : rdField (encodeR op rd ra rb rc n) = rd := by
  have := encodeR_lt h rd ra rb rc n
  apply Fin.ext; unfold rdField encodeR; rw [regField_ofNat this]
  have := rd.isLt; have := ra.isLt; have := rb.isLt; have := rc.isLt; have := Nat.mod_lt n (y := 256) (by decide)
  omega

theorem ra_encodeR : raField (encodeR op rd ra rb rc n) = ra := by
  have := encodeR_lt h rd ra rb rc n
  apply Fin.ext; unfold raField encodeR; rw [regField_ofNat this]
  have := rd.isLt; have := ra.isLt; have := rb.isLt; have := rc.isLt; have := Nat.mod_lt n (y := 256) (by decide)
  omega

theorem rb_encodeR : rbField (encodeR op rd ra rb rc n) = rb := by
  have := encodeR_lt h rd ra rb rc n
  apply Fin.ext; unfold rbField encodeR; rw [regField_ofNat this]
  have := rd.isLt; have := ra.isLt; have := rb.isLt; have := rc.isLt; have := Nat.mod_lt n (y := 256) (by decide)
  omega

theorem rc_encodeR : rcField (encodeR op rd ra rb rc n) = rc := by
  have := encodeR_lt h rd ra rb rc n
  apply Fin.ext; unfold rcField encodeR; rw [regField_ofNat this]
  have := rd.isLt; have := ra.isLt; have := rb.isLt; have := rc.isLt; have := Nat.mod_lt n (y := 256) (by decide)
  omega

theorem imm8_encodeR : imm8Field (encodeR op rd ra rb rc n) = n % 256 := by
  have := encodeR_lt h rd ra rb rc n
  unfold imm8Field encodeR; rw [field_ofNat this]
  have := Nat.mod_lt n (y := 256) (by decide)
  omega

/-- The must-be-zero slices of format R, as numbers of their register fields. -/
theorem field_encodeR (lo len : Nat) :
    field (encodeR op rd ra rb rc n) lo len =
      (op * 2 ^ 24 + rd.val * 2 ^ 20 + ra.val * 2 ^ 16 + rb.val * 2 ^ 12 + rc.val * 2 ^ 8 + n % 256) / 2 ^ lo
        % 2 ^ len := field_ofNat (encodeR_lt h rd ra rb rc n) lo len

end formatR

theorem field_encodeI {op : Nat} (h : op < 256) (rd : Reg) (n lo len : Nat) :
    field (encodeI op rd n) lo len = (op * 2 ^ 24 + rd.val * 2 ^ 20 + n % 65536) / 2 ^ lo % 2 ^ len :=
  field_ofNat (encodeI_lt h rd n) lo len

theorem rd_encodeI {op : Nat} (h : op < 256) (rd : Reg) (n : Nat) : rdField (encodeI op rd n) = rd := by
  have := encodeI_lt h rd n
  apply Fin.ext; unfold rdField encodeI; rw [regField_ofNat this]
  have := rd.isLt; have := Nat.mod_lt n (y := 65536) (by decide)
  omega

theorem field_encodeD {m : Nat} (h : m < 4) (rd : Reg) (n lo len : Nat) :
    field (encodeD rd m n) lo len = (0x10 * 2 ^ 24 + rd.val * 2 ^ 20 + m * 2 ^ 18 + n % 256) / 2 ^ lo % 2 ^ len :=
  field_ofNat (encodeD_lt h rd n) lo len

theorem rd_encodeD {m : Nat} (h : m < 4) (rd : Reg) (n : Nat) : rdField (encodeD rd m n) = rd := by
  have := encodeD_lt h rd n
  apply Fin.ext; unfold rdField encodeD; rw [regField_ofNat this]
  have := rd.isLt; have := Nat.mod_lt n (y := 256) (by decide)
  omega

/-- The signed immediate survives its 16-bit field (R95). -/
theorem sext16_emod {z : Int} (h1 : -32768 ≤ z) (h2 : z ≤ 32767) : sext16 (z % 65536).toNat = z := by
  unfold sext16; split <;> omega

/-- Two bits' worth of a slice: a slice is zero exactly when the number has none of its bits. -/
theorem field_eq_zero_iff (w : Word) (lo len : Nat) :
    field w lo len = 0 ↔ ∀ i, lo ≤ i → i < lo + len → w.getLsbD i = false := by
  unfold field
  constructor
  · intro h i h1 h2
    have : (w.toNat / 2 ^ lo % 2 ^ len).testBit (i - lo) = false := by rw [h]; simp
    rw [Nat.testBit_mod_two_pow, Nat.testBit_div_two_pow] at this
    have e : i - lo + lo = i := by omega
    have l : i - lo < len := by omega
    simpa [e, l, BitVec.testBit_toNat] using this
  · intro h
    apply Nat.eq_of_testBit_eq
    intro j
    rw [Nat.testBit_mod_two_pow, Nat.testBit_div_two_pow]
    by_cases l : j < len
    · have := h (j + lo) (by omega) (by omega)
      simp [l, BitVec.testBit_toNat, this]
    · simp [l]

/-- Two words with the same slice have the same bits there. -/
theorem getLsbD_of_field_eq {w b : Word} {lo len : Nat} (h : field w lo len = field b lo len) {i : Nat}
    (h1 : lo ≤ i) (h2 : i < lo + len) : w.getLsbD i = b.getLsbD i := by
  have e : i - lo + lo = i := by omega
  have l : i - lo < len := by omega
  have : (w.toNat / 2 ^ lo % 2 ^ len).testBit (i - lo) = (b.toNat / 2 ^ lo % 2 ^ len).testBit (i - lo) := by
    unfold field at h; rw [h]
  rw [Nat.testBit_mod_two_pow, Nat.testBit_div_two_pow, Nat.testBit_mod_two_pow, Nat.testBit_div_two_pow] at this
  simpa [e, l, BitVec.testBit_toNat] using this

/-- A word matches a row when its slices over the mask's ones are those of the row's fixed bits. -/
theorem mask_eq_of_fields {w b m : Word} (regions : List (Nat × Nat))
    (hm : ∀ i : Fin 32, m.getLsbD i.val = true → ∃ r ∈ regions, r.1 ≤ i.val ∧ i.val < r.1 + r.2)
    (hb : b &&& m = b) (hf : ∀ r ∈ regions, field w r.1 r.2 = field b r.1 r.2) : w &&& m = b := by
  apply BitVec.eq_of_getLsbD_eq
  intro i hi
  rw [← hb, BitVec.getLsbD_and, BitVec.getLsbD_and]
  cases hmi : m.getLsbD i with
  | false => simp
  | true =>
    obtain ⟨r, hr, h1, h2⟩ := hm ⟨i, hi⟩ hmi
    rw [getLsbD_of_field_eq (hf r hr) h1 h2]

/-- Inside the mask's ones, a matching word's slices are those of the row's fixed bits. -/
theorem field_eq_of_mask {w b m : Word} (h : w &&& m = b) {lo len : Nat}
    (hm : ∀ i : Fin 32, lo ≤ i.val → i.val < lo + len → m.getLsbD i.val = true) (hlen : lo + len ≤ 32) :
    field w lo len = field b lo len := by
  unfold field
  apply Nat.eq_of_testBit_eq
  intro j
  rw [Nat.testBit_mod_two_pow, Nat.testBit_div_two_pow, Nat.testBit_mod_two_pow, Nat.testBit_div_two_pow]
  by_cases l : j < len
  · have := hm ⟨j + lo, by omega⟩ (by simp) (by simp only; omega)
    rw [← h]
    simp only [BitVec.testBit_toNat, BitVec.getLsbD_and]
    simp only at this
    simp [this]
  · simp [l]

end Sys2Proof
end

