-- ==== Sys2Proof/Laws/Output.lean ====
section
/-! SUPPORT. What EMIT packs, and what the CSR operations and the error record do to each readable register (R24 to
R26, R190, R191, R236). -/

namespace Sys2Proof.Machine

/-! ### Packing -/

@[simp] theorem lowBytes_length (n : Nat) : ∀ v : Word, (lowBytes v n).length = n := by
  induction n with
  | zero => intro v; rfl
  | succ n ih => intro v; simp [lowBytes, ih]

/-- Byte `i` of the low bytes is bits `8i .. 8i + 7` (R191). -/
theorem lowBytes_elem (n : Nat) : ∀ (v : Word) (i : Nat), i < n →
    (lowBytes v n)[i]? = some ((v >>> (8 * i)).setWidth 8) := by
  induction n with
  | zero => intro v i h; omega
  | succ n ih =>
    intro v i h
    cases i with
    | zero => simp [lowBytes]
    | succ i =>
      rw [lowBytes, List.getElem?_cons_succ, ih _ i (by omega), ← BitVec.shiftRight_add]
      congr 3; omega

@[simp] theorem pack_length (big : Bool) (n : Nat) (v : Word) : (pack big n v).length = n := by
  unfold pack; split <;> simp

/-- EMIT appends exactly BLOCKALIGN bytes (R190). -/
theorem channelBytes_length (big : Bool) (n : Nat) (a b : Word) (left : Nat) :
    ∀ c, (channelBytes big n a b c left).length = n * left := by
  induction left with
  | zero => intro c; rfl
  | succ left ih => intro c; simp [channelBytes, ih, Nat.mul_succ, Nat.add_comm]

theorem State.blockBytes_length (s : State) (a b : Word) : (s.blockBytes a b).length = s.blockAlign :=
  channelBytes_length _ _ _ _ _ _

/-! ### Control and status registers -/

/-- A register that is no read-only one reads back the written value, cut to its field; ERRLOG has lost the written
ones (R24, R215). -/
theorem csrValue_csrSet_same (s : State) (c : Csr) (v : Word) :
    (s.csrSet c v).csrValue c =
      match c with
      | .errlog => s.errlogWord &&& ~~~ v
      | .version => (v.setWidth 16).setWidth 32
      | .channels | .bitsps => (v.setWidth 8).setWidth 32
      | .lagsel | .msround => (v.setWidth 1).setWidth 32
      | .rk _ | .fshift _ => (v.setWidth 5).setWidth 32
      | .rksum _ | .crcstored | .silcnt | .fmul _ => v
      | .ftype _ => (v.setWidth 2).setWidth 32
      | .forder _ => (v.setWidth 16).setWidth 32
      | _ => s.csrValue c := by
  cases c <;> try rfl
  · simp only [State.csrSet, State.csrValue, State.clearErrlog, State.errlogWord]
    apply BitVec.eq_of_getLsbD_eq
    intro i hi
    simp only [BitVec.getLsbD_shiftLeft, BitVec.getLsbD_setWidth, BitVec.getLsbD_and, BitVec.getLsbD_not,
      BitVec.getLsbD_ushiftRight]
    by_cases h0 : i < 1
    · simp [h0]
    · have e : 1 + (i - 1) = i := by omega
      by_cases h1 : i - 1 < 12
      · have h2 : i - 1 < 32 := by omega
        simp [h0, hi, h1, h2, e]
      · have : s.errlog.getLsbD (i - 1) = false := BitVec.getLsbD_of_ge _ _ (by omega)
        simp [this]
  all_goals simp [State.csrSet, State.csrValue, Vector.get_eq_getElem, State.filter, State.setFilter]

/-- No other register reads otherwise, but the two computed from BITSPS and CHANNELS (R31, R215). -/
theorem csrValue_csrSet_other (s : State) {c c' : Csr} (v : Word) (h : c' ≠ c) (h1 : c' ≠ .bytesps)
    (h2 : c' ≠ .blockalign) : (s.csrSet c v).csrValue c' = s.csrValue c' := by
  have two : ∀ {i j : Fin 2}, i ≠ j → j.val ≠ i.val := fun h e => h (Fin.ext e.symm)
  cases c <;> cases c' <;> first
    | rfl
    | exact absurd rfl h
    | exact absurd rfl h1
    | exact absurd rfl h2
    | (rename_i i j
       by_cases e : j = i
       · subst e; first | exact absurd rfl h | (simp [State.csrSet, State.csrValue])
       · have e' : i.val ≠ j.val := fun hh => e (Fin.ext hh.symm)
         simp [State.csrSet, State.csrValue, Vector.get_eq_getElem, State.filter, State.setFilter,
           Vector.getElem_set_ne, e'])

/-- A CSR write keeps everything that is no writable register (R215). -/
theorem csrSet_frame (s : State) (c : Csr) (v : Word) :
    (s.csrSet c v).d = s.d ∧ (s.csrSet c v).seq = s.seq ∧ (s.csrSet c v).responses = s.responses ∧
    (s.csrSet c v).out = s.out ∧ (s.csrSet c v).win = s.win ∧ (s.csrSet c v).src = s.src ∧
    (s.csrSet c v).srcLen = s.srcLen ∧ (s.csrSet c v).cfg = s.cfg ∧ (s.csrSet c v).inbox = s.inbox ∧
    (s.csrSet c v).answers = s.answers ∧ (s.csrSet c v).reads = s.reads ∧ (s.csrSet c v).isOpen = s.isOpen ∧
    (s.csrSet c v).bvalid = s.bvalid ∧ (s.csrSet c v).ferr = s.ferr := by
  cases c <;> exact ⟨rfl, rfl, rfl, rfl, rfl, rfl, rfl, rfl, rfl, rfl, rfl, rfl, rfl, rfl⟩

/-- Of a filter instance a CSR write keeps the hidden state, the average and `last` (R46, R215). -/
theorem csrSet_filter_frame (s : State) (c : Csr) (v : Word) (f : Fin 8) :
    ((s.csrSet c v).filter f).weights = (s.filter f).weights ∧ ((s.csrSet c v).filter f).hist = (s.filter f).hist ∧
    ((s.csrSet c v).filter f).delta = (s.filter f).delta ∧ ((s.csrSet c v).filter f).avg = (s.filter f).avg ∧
    ((s.csrSet c v).filter f).last = (s.filter f).last := by
  have key : ∀ (g : Fin 8) (x : Filter), x.weights = (s.filter g).weights → x.hist = (s.filter g).hist →
      x.delta = (s.filter g).delta → x.avg = (s.filter g).avg → x.last = (s.filter g).last →
      ((s.setFilter g x).filter f).weights = (s.filter f).weights ∧
      ((s.setFilter g x).filter f).hist = (s.filter f).hist ∧
      ((s.setFilter g x).filter f).delta = (s.filter f).delta ∧ ((s.setFilter g x).filter f).avg = (s.filter f).avg ∧
      ((s.setFilter g x).filter f).last = (s.filter f).last := by
    intro g x h1 h2 h3 h4 h5
    by_cases e : f = g
    · subst e; rw [filter_setFilter_same]; exact ⟨h1, h2, h3, h4, h5⟩
    · rw [filter_setFilter_of_ne s x e]; exact ⟨rfl, rfl, rfl, rfl, rfl⟩
  cases c <;> first
    | exact ⟨rfl, rfl, rfl, rfl, rfl⟩
    | exact key _ _ rfl rfl rfl rfl rfl

/-- CSRR of an address with a register writes its value (R214). -/
theorem execCsrr_value (s : State) {a : Nat} {c : Csr} (rd : Reg) (h : csrAt a = some c) :
    execCsrr rd a s = .next (s.completeReg rd (s.csrValue c)) := by
  unfold execCsrr; rw [h]

/-- CSRW of a writable register completes when the session state admits it (R215). -/
theorem execCsrw_complete (s : State) {a : Nat} {c : Csr} (ra : Reg) (h : csrAt a = some c) (hr : c.cls ≠ .ro)
    (ho : c.cls = .cfg → s.isOpen = false) :
    execCsrw a ra s = .next ((s.csrSet c (s.reg ra)).complete 0#32) := by
  unfold execCsrw
  rw [checked_pass _ (by simpa [State.csrwChecks, h, csrNotWritable, csrIsCfg, hr] using ho), h]

/-! ### The error record -/

theorem Err.code_bounds (e : Err) : 1 ≤ e.code.toNat ∧ e.code.toNat ≤ 12 := by cases e <;> decide

/-- An error sets its bit of ERRLOG and no other (R26). -/
theorem errlogWord_raise (s : State) (e : Err) (w : Word) :
    (s.raise e w).errlogWord = s.errlogWord ||| (1#32 <<< e.code.toNat) := by
  have go : ∀ n, n < 12 → ((s.errlog ||| (1#12 <<< n)).setWidth 32) <<< 1 =
      (s.errlog.setWidth 32) <<< 1 ||| (1#32 <<< (n + 1)) := by
    intro n hn
    apply BitVec.eq_of_getLsbD_eq
    intro i hi
    simp only [BitVec.getLsbD_shiftLeft, BitVec.getLsbD_setWidth, BitVec.getLsbD_or, BitVec.getLsbD_one]
    by_cases h0 : i < 1
    · have : i < n + 1 := by omega
      simp [h0, this]
    · by_cases h1 : i - 1 < 12
      · by_cases h2 : i < n + 1
        · have h3 : i - 1 < n := by omega
          simp [h0, hi, h1, h2, h3]
        · have h3 : ¬ i - 1 < n := by omega
          have h4 : i - 1 < 32 := by omega
          have e : i - 1 - n = i - (n + 1) := by omega
          simp [h0, hi, h1, h2, h3, h4, e]
      · have h2 : ¬ i < n + 1 := by omega
        have h3 : ¬ i - (n + 1) = 0 := by omega
        simp [h0, h1, h2, h3]
  have h := e.code_bounds
  have := go (e.code.toNat - 1) (by omega)
  rwa [Nat.sub_add_cancel h.1] at this

/-- No error answers OK. -/
theorem Err.code_ne_zero (e : Err) : e.code ≠ 0#8 := by cases e <;> decide

/-- The codes tell the errors apart (R232). -/
theorem Err.code_inj {e e' : Err} (h : e.code = e'.code) : e = e' := by
  revert h; cases e <;> cases e' <;> decide

end Sys2Proof.Machine
end

