-- ==== Sys2Proof/Laws/Exec.lean ====
section
/-! SUPPORT. What a command can do to the state, said once: every answer of exec is one of these (the successes with
the conditions they have passed, the errors). A fact about every command is a case analysis on Effect. -/

namespace Sys2Proof.Machine

/-- What a command that completes has made of the state, and its response's value, before the response is returned and
counted. -/
inductive Done : Instr → State → State → Word → Prop
  | nop {s : State} : Done .nop s s 0#32
  | li {s : State} (rd : Reg) (imm : Int) : Done (.li rd imm) s (s.setReg rd (wrap32 imm)) (wrap32 imm)
  | lih {s : State} (rd : Reg) (imm : Nat) :
      Done (.lih rd imm) s (s.setReg rd (withHigh imm (s.reg rd))) (withHigh imm (s.reg rd))
  | mov {s : State} (rd ra : Reg) : Done (.mov rd ra) s (s.setReg rd (s.reg ra)) (s.reg ra)
  | csrr {s : State} (rd : Reg) (csr : Nat) (c : Csr) (h : csrAt csr = some c) :
      Done (.csrr rd csr) s (s.setReg rd (s.csrValue c)) (s.csrValue c)
  | csrw {s : State} (csr : Nat) (ra : Reg) (c : Csr) (h : csrAt csr = some c) (h1 : c.cls ≠ .ro)
      (h2 : c.cls = .cfg → s.isOpen = false) : Done (.csrw csr ra) s (s.csrSet c (s.reg ra)) 0#32
  | openSession {s : State} (h : s.isOpen = false) (h1 : s.headerOk = true) (h2 : s.srcLen < 2 ^ 32)
      (h3 : s.filtersOk = true) : Done .openSession s s.beginSession 0#32
  | closeSession {s : State} (h : s.isOpen = true) :
      Done .closeSession s { s with isOpen := false, bvalid := false } 0#32
  | decBits {i : Instr} {s : State} (rd : Reg) (n : Nat) (hi : i = .decUint rd n ∨ i = .decXbits rd n)
      (h : s.isOpen = true) (h1 : s.bvalid = true) (h2 : n ≤ 32) (h3 : n ≤ s.avail) :
      Done i s (State.setReg { s with bitpos := s.bitpos + BitVec.ofNat 32 n } rd
        (BitVec.ofNat 32 (s.fieldAt s.bitpos.toNat n))) (BitVec.ofNat 32 (s.fieldAt s.bitpos.toNat n))
  | decRice {s : State} (rd : Reg) (slot v p : Nat) (a : BitVec 5 × Word) (h : s.isOpen = true) (h1 : s.bvalid = true)
      (h2 : slot < 2) (h3 : s.riceCode (s.rk.get (slotOf slot)).toNat = some (v, p)) (h4 : v < 2 ^ 32)
      (h5 : a = riceAdapt s.cfg.riceAdapt (s.rk.get (slotOf slot)) (s.rksum.get (slotOf slot)) (BitVec.ofNat 32 v)) :
      Done (.decRice rd slot) s (State.setReg
        { s with
          rk := s.rk.set (slotOf slot).val a.1 (slotOf slot).isLt
          rksum := s.rksum.set (slotOf slot).val a.2 (slotOf slot).isLt
          bitpos := BitVec.ofNat 32 p } rd (BitVec.ofNat 32 v)) (BitVec.ofNat 32 v)
  | align {s : State} (h : s.isOpen = true) (h1 : s.bvalid = true) :
      Done .align s { s with bitpos := BitVec.ofNat 32 (8 * ((s.bitpos.toNat + 7) / 8)) } 0#32
  | fillNone {s : State} (h : s.isOpen = true) (h1 : s.bvalid = true) (h2 : s.fillCount = 0) :
      Done .fill s (s.refill [] 0) 0#32
  | fill {s : State} (h : s.isOpen = true) (h1 : s.bvalid = true) (h2 : 0 < s.fillCount)
      (h3 : s.nextAnswer = .ok) (h4 : s.srcpos.toNat + s.fillCount ≤ s.srcLen) :
      Done .fill s (s.readDone.refill (s.src.readBytes s.srcpos.toNat s.fillCount) s.fillCount) 0#32
  | fillr {s : State} (ra rb : Reg) (h : s.isOpen = true) (h1 : (s.reg ra).toNat ≤ s.srcsize.toNat)
      (h2 : (s.reg rb).toNat < 8 * s.windowCount (s.reg ra).toNat) (h3 : s.nextAnswer = .ok)
      (h4 : (s.reg ra).toNat + s.windowCount (s.reg ra).toNat ≤ s.srcLen) :
      Done (.fillr ra rb) s
        (s.readDone.newWindow (s.reg ra).toNat (s.windowCount (s.reg ra).toNat) (s.reg rb).toNat
          (s.src.readBytes (s.reg ra).toNat (s.windowCount (s.reg ra).toNat))) 0#32
  | seek {s : State} (ra rb : Reg) (h : s.isOpen = true) (h1 : (s.reg ra).toNat ≤ s.srcsize.toNat)
      (h2 : (s.reg rb).toNat < 8 * s.windowCount (s.reg ra).toNat) (h3 : s.nextAnswer = .ok)
      (h4 : (s.reg ra).toNat + s.windowCount (s.reg ra).toNat ≤ s.srcLen) :
      Done (.seek ra rb) s
        (s.flushAll.readDone.newWindow (s.reg ra).toNat (s.windowCount (s.reg ra).toNat) (s.reg rb).toNat
          (s.src.readBytes (s.reg ra).toNat (s.windowCount (s.reg ra).toNat))) 0#32
  | zz {s : State} (rd ra : Reg) : Done (.zz rd ra) s (s.setReg rd (zigzag (s.reg ra))) (zigzag (s.reg ra))
  | nnd {s : State} (rd ra : Reg) (f : Nat) (r : Word × Filter) (h : s.isOpen = true) (h1 : f < 8)
      (h2 : (s.filter (instanceOf f)).ftype = 1)
      (h3 : r = (s.filter (instanceOf f)).nnd s.cfg s.lagsel (s.reg ra)) :
      Done (.nnd rd ra f) s ((s.setFilter (instanceOf f) r.2).setReg rd r.1) r.1
  | nnc {s : State} (rd ra : Reg) (f : Nat) (r : Word × Filter) (h : s.isOpen = true) (h1 : f < 8)
      (h2 : (s.filter (instanceOf f)).ftype = 1)
      (h3 : r = (s.filter (instanceOf f)).nnc s.cfg s.lagsel (s.reg ra)) :
      Done (.nnc rd ra f) s ((s.setFilter (instanceOf f) r.2).setReg rd r.1) r.1
  | fod {s : State} (rd ra : Reg) (f : Nat) (r : Word × Filter) (h : s.isOpen = true) (h1 : f < 8)
      (h2 : (s.filter (instanceOf f)).ftype = 2) (h3 : r = (s.filter (instanceOf f)).fod (s.reg ra)) :
      Done (.fod rd ra f) s ((s.setFilter (instanceOf f) r.2).setReg rd r.1) r.1
  | foc {s : State} (rd ra : Reg) (f : Nat) (r : Word × Filter) (h : s.isOpen = true) (h1 : f < 8)
      (h2 : (s.filter (instanceOf f)).ftype = 2) (h3 : r = (s.filter (instanceOf f)).foc (s.reg ra)) :
      Done (.foc rd ra f) s ((s.setFilter (instanceOf f) r.2).setReg rd r.1) r.1
  | casd {s : State} (rd ra : Reg) (ch : Nat) (r : Word × Vector Filter 8) (h : s.isOpen = true)
      (h1 : ch < s.channels.toNat) (h2 : ch < 2)
      (h3 : r = cascade (Filter.decodeStage s.cfg s.lagsel) (channelStages ch) s.filters (s.reg ra)) :
      Done (.casd rd ra ch) s (State.setReg { s with filters := r.2 } rd r.1) r.1
  | casc {s : State} (rd ra : Reg) (ch : Nat) (r : Word × Vector Filter 8) (h : s.isOpen = true)
      (h1 : ch < s.channels.toNat) (h2 : ch < 2)
      (h3 : r = cascade (Filter.encodeStage s.cfg s.lagsel) (channelStages ch).reverse s.filters (s.reg ra)) :
      Done (.casc rd ra ch) s (State.setReg { s with filters := r.2 } rd r.1) r.1
  | flushf {s : State} (f : Nat) (h : s.isOpen = true) (h1 : f < 8) :
      Done (.flushf f) s (s.setFilter (instanceOf f) (s.filter (instanceOf f)).flush) 0#32
  | flusha {s : State} (h : s.isOpen = true) : Done .flusha s s.flushAll 0#32
  | sat16 {s : State} (rd ra : Reg) :
      Done (.sat16 rd ra) s (s.setReg rd (wrap32 (Machine.sat16 (s.reg ra).toInt)))
        (wrap32 (Machine.sat16 (s.reg ra).toInt))
  | ms2lr {s : State} (rd rc ra rb : Reg) (h : rd ≠ rc) :
      Done (.ms2lr rd rc ra rb) s ((s.setReg rd (leftSample s.msround (s.reg ra) (s.reg rb))).setReg rc
        (rightSample s.msround (s.reg ra) (s.reg rb))) (leftSample s.msround (s.reg ra) (s.reg rb))
  | mono {s : State} (rd ra : Reg) : Done (.mono rd ra) s (s.setReg rd (s.reg ra)) (s.reg ra)
  | emit {s : State} (ra rb : Reg) (h : s.isOpen = true) :
      Done (.emit ra rb) s (s.emitBytes (s.blockBytes (s.reg ra) (s.reg rb))) 0#32
  | sil {s : State} (h : s.isOpen = true) :
      Done .sil s (State.append { s with silcnt := 0 } (List.replicate (s.silcnt.toNat * s.blockAlign) 0#8)) 0#32
  | crcs {s : State} (h : s.isOpen = true) : Done .crcs s { s with crcacc := s.cfg.crcInit, ferr := false } 0#32
  | crce {s : State} (rd : Reg) (h : s.isOpen = true) (h1 : crcFinal s.cfg s.crcacc = s.crcstored) :
      Done (.crce rd) s (s.setReg rd 1#32) 1#32

/-- What a command that ends in an error has made of the state before the error is recorded. -/
inductive Failed : Instr → State → State → Err → Prop
  /-- An error that leaves only its record. -/
  | hard {i : Instr} {s : State} (e : Err) (h1 : e ≠ .ioError) (h2 : e ≠ .frameIntegrityError)
      (h3 : e = .notOpen → i.needsOpen = true ∧ s.isOpen = false) : Failed i s s e
  | fill {s : State} (h : s.isOpen = true) (h1 : s.bvalid = true) (h2 : 0 < s.fillCount) :
      Failed .fill s s.readDone.cursorLost .ioError
  | fillr {s : State} (ra rb : Reg) (h : s.isOpen = true) :
      Failed (.fillr ra rb) s s.readDone.cursorLost .ioError
  | seek {s : State} (ra rb : Reg) (h : s.isOpen = true) :
      Failed (.seek ra rb) s s.flushAll.readDone.cursorLost .ioError
  | crce {s : State} (rd : Reg) (h : s.isOpen = true) (h1 : crcFinal s.cfg s.crcacc ≠ s.crcstored) :
      Failed (.crce rd) s (State.setReg { s with ferr := true } rd 0#32) .frameIntegrityError

/-- An answered command has completed, or ended in an error. -/
inductive Effect (i : Instr) (s t : State) : Prop
  | done (u : State) (v : Word) (h : Done i s u v) (e : t = u.complete v)
  | failed (u : State) (e : Err) (h : Failed i s u e) (e : t = u.raise e (encode i))

/-- A checked command raises one of its checks' errors, none of them IOError or FrameIntegrityError, and NotOpen only
while closed; or it has passed every check. -/
theorem Effect.ofChecked {i : Instr} {s t : State} {cs : List (Bool × Err)} {go : Result}
    (h : checked s (encode i) cs go = .next t)
    (hcs : ∀ c ∈ cs, c.1 = true → c.2 ≠ .ioError ∧ c.2 ≠ .frameIntegrityError ∧
      (c.2 = .notOpen → i.needsOpen = true ∧ s.isOpen = false))
    (hgo : (∀ c ∈ cs, c.1 = false) → go = .next t → Effect i s t) : Effect i s t := by
  rcases checked_next h with ⟨e, he, rfl⟩ | ⟨hn, hg⟩
  · obtain ⟨h1, h2, h3⟩ := hcs _ (firstError_mem he) rfl; exact .failed _ e (.hard e h1 h2 h3) rfl
  · exact hgo ((firstError_eq_none cs).mp hn) hg

/-- A list of checks that begins with the session check raises what Effect.ofChecked asks for. -/
theorem plainChecks {i : Instr} {s : State} (hi : i.needsOpen = true) (rest : List (Bool × Err))
    (hr : ∀ c ∈ rest, c.2 ≠ .ioError ∧ c.2 ≠ .frameIntegrityError ∧ c.2 ≠ .notOpen) :
    ∀ c ∈ (!s.isOpen, Err.notOpen) :: rest, c.1 = true → c.2 ≠ .ioError ∧ c.2 ≠ .frameIntegrityError ∧
      (c.2 = .notOpen → i.needsOpen = true ∧ s.isOpen = false) := by
  intro c hc h
  rcases List.mem_cons.mp hc with rfl | hc
  · exact ⟨by simp, by simp, fun _ => ⟨hi, by simpa using h⟩⟩
  · obtain ⟨h1, h2, h3⟩ := hr c hc; exact ⟨h1, h2, fun e => absurd e h3⟩

/-- A legal instance number names its own instance. -/
theorem instanceOf_lt {f : Nat} (h : f < 8) : (instanceOf f).val = f := Nat.mod_eq_of_lt h

/-- Every answer of exec is one of these effects. -/
theorem exec_effect {i : Instr} {s t : State} (h : exec i s = .next t) : Effect i s t := by
  cases i with
  | nop => cases h; exact .done _ _ (.nop) rfl
  | li rd imm => cases h; exact .done _ _ (.li rd imm) rfl
  | lih rd imm => cases h; exact .done _ _ (.lih rd imm) rfl
  | mov rd ra => cases h; exact .done _ _ (.mov rd ra) rfl
  | csrr rd csr =>
    simp only [exec, execCsrr] at h
    split at h
    · cases h; exact .failed _ _ (.hard _ (by decide) (by decide) (by intro h; cases h)) rfl
    · next c hc => cases h; exact .done _ _ (.csrr rd csr c hc) rfl
  | csrw csr ra =>
    refine .ofChecked h (by simp [State.csrwChecks]) fun hn hg => ?_
    simp only [State.csrwChecks, List.mem_cons, List.not_mem_nil, or_false, forall_eq_or_imp, forall_eq] at hn
    split at hg
    · next hc => simp [hc, csrNotWritable] at hn
    · next c hc =>
      cases hg
      simp only [hc, csrNotWritable, csrIsCfg] at hn
      refine .done _ _ (.csrw csr ra c hc ?_ ?_) rfl
      · intro e; simp [e] at hn
      · intro e; cases ho : s.isOpen <;> simp_all
  | openSession =>
    refine .ofChecked h (by simp [State.openChecks]) fun hn hg => ?_
    simp only [State.openChecks, List.mem_cons, List.not_mem_nil, or_false, forall_eq_or_imp,
      forall_eq, Bool.not_eq_false', decide_eq_false_iff_not, Nat.not_le] at hn
    cases hg; exact .done _ _ (.openSession hn.1 hn.2.1 hn.2.2.1 hn.2.2.2) rfl
  | closeSession =>
    refine .ofChecked h (plainChecks rfl _ (by simp)) fun hn hg => ?_
    cases hg; exact .done _ _ (.closeSession (by simpa using hn)) rfl
  | decUint rd n =>
    refine .ofChecked h (plainChecks rfl _ (by simp)) fun hn hg => ?_
    simp [State.decChecks] at hn
    cases hg; exact .done _ _ (.decBits rd n (.inl rfl) hn.1 hn.2.2.1 hn.2.1 hn.2.2.2) rfl
  | decXbits rd n =>
    refine .ofChecked h (plainChecks rfl _ (by simp)) fun hn hg => ?_
    simp [State.decChecks] at hn
    cases hg; exact .done _ _ (.decBits rd n (.inr rfl) hn.1 hn.2.2.1 hn.2.1 hn.2.2.2) rfl
  | decRice rd slot =>
    refine .ofChecked h (plainChecks rfl _ (by simp)) fun hn hg => ?_
    simp [State.decChecks] at hn
    split at hg
    · cases hg; exact .failed _ _ (.hard _ (by simp) (by simp) (by simp)) rfl
    · next v p hv =>
      split at hg
      · cases hg; exact .failed _ _ (.hard _ (by simp) (by simp) (by simp)) rfl
      · cases hg; exact .done _ _ (.decRice rd slot v p _ hn.1 hn.2.2 (by omega) hv (by omega) rfl) rfl
  | align =>
    refine .ofChecked h (plainChecks rfl _ (by simp)) fun hn hg => ?_
    simp at hn; cases hg; exact .done _ _ (.align hn.1 hn.2) rfl
  | fill =>
    refine .ofChecked h (plainChecks rfl _ (by simp)) fun hn hg => ?_
    simp at hn
    split at hg
    · next h0 => cases hg; exact .done _ _ (.fillNone hn.1 hn.2 h0) rfl
    · next h0 =>
      split at hg
      · next bs hb =>
        obtain ⟨h1, h2, rfl⟩ := State.srcRead_ok hb
        cases hg; exact .done _ _ (.fill hn.1 hn.2 (by omega) h1 h2) rfl
      · cases hg; exact .failed _ _ (.fill hn.1 hn.2 (by omega)) rfl
      · cases hg
  | fillr ra rb =>
    refine .ofChecked h (plainChecks rfl _ (by simp)) fun hn hg => ?_
    simp [State.refillChecks] at hn
    rcases fillFrom_next hg with ⟨h1, h2, rfl⟩ | rfl
    · exact .done _ _ (.fillr ra rb hn.1 hn.2.1 hn.2.2 h1 h2) rfl
    · exact .failed _ _ (.fillr ra rb hn.1) rfl
  | seek ra rb =>
    refine .ofChecked h (plainChecks rfl _ (by simp)) fun hn hg => ?_
    simp [State.refillChecks] at hn
    rcases fillFrom_next hg with ⟨h1, h2, rfl⟩ | rfl
    · exact .done _ _ (.seek ra rb hn.1 hn.2.1 hn.2.2 h1 h2) rfl
    · exact .failed _ _ (.seek ra rb hn.1) rfl
  | zz rd ra => cases h; exact .done _ _ (.zz rd ra) rfl
  | nnd rd ra f =>
    refine .ofChecked h (plainChecks rfl _ (by simp)) fun hn hg => ?_
    simp [State.stageChecks] at hn; cases hg; exact .done _ _ (.nnd rd ra f _ hn.1 hn.2.1 hn.2.2 rfl) rfl
  | nnc rd ra f =>
    refine .ofChecked h ?_ fun hn hg => ?_
    · simp [State.compressChecks, State.stageChecks, Instr.needsOpen]
    · simp [State.compressChecks, State.stageChecks] at hn
      cases hg; exact .done _ _ (.nnc rd ra f _ hn.2.1 hn.2.2.1 hn.2.2.2 rfl) rfl
  | fod rd ra f =>
    refine .ofChecked h (plainChecks rfl _ (by simp)) fun hn hg => ?_
    simp [State.stageChecks] at hn; cases hg; exact .done _ _ (.fod rd ra f _ hn.1 hn.2.1 hn.2.2 rfl) rfl
  | foc rd ra f =>
    refine .ofChecked h ?_ fun hn hg => ?_
    · simp [State.compressChecks, State.stageChecks, Instr.needsOpen]
    · simp [State.compressChecks, State.stageChecks] at hn
      cases hg; exact .done _ _ (.foc rd ra f _ hn.2.1 hn.2.2.1 hn.2.2.2 rfl) rfl
  | casd rd ra ch =>
    refine .ofChecked h (plainChecks rfl _ (by simp)) fun hn hg => ?_
    simp [State.channelChecks, State.badChannel] at hn
    cases hg; exact .done _ _ (.casd rd ra ch _ hn.1 hn.2.1 (by omega) rfl) rfl
  | casc rd ra ch =>
    refine .ofChecked h ?_ fun hn hg => ?_
    · simp [State.compressChecks, State.channelChecks, Instr.needsOpen]
    · simp [State.compressChecks, State.channelChecks, State.badChannel] at hn
      cases hg; exact .done _ _ (.casc rd ra ch _ hn.2.1 hn.2.2.1 (by omega) rfl) rfl
  | flushf f =>
    refine .ofChecked h (plainChecks rfl _ (by simp)) fun hn hg => ?_
    simp at hn; cases hg; exact .done _ _ (.flushf f hn.1 hn.2) rfl
  | flusha =>
    refine .ofChecked h (plainChecks rfl _ (by simp)) fun hn hg => ?_
    cases hg; exact .done _ _ (.flusha (by simpa using hn)) rfl
  | sat16 rd ra => cases h; exact .done _ _ (.sat16 rd ra) rfl
  | ms2lr rd rc ra rb =>
    refine .ofChecked h (by simp) fun hn hg => ?_
    cases hg; exact .done _ _ (.ms2lr rd rc ra rb (by simpa using hn)) rfl
  | mono rd ra => cases h; exact .done _ _ (.mono rd ra) rfl
  | emit ra rb =>
    refine .ofChecked h (plainChecks rfl _ (by simp)) fun hn hg => ?_
    cases hg; exact .done _ _ (.emit ra rb (by simpa using hn)) rfl
  | sil =>
    refine .ofChecked h (plainChecks rfl _ (by simp)) fun hn hg => ?_
    cases hg; exact .done _ _ (.sil (by simpa using hn)) rfl
  | crcs =>
    refine .ofChecked h (plainChecks rfl _ (by simp)) fun hn hg => ?_
    cases hg; exact .done _ _ (.crcs (by simpa using hn)) rfl
  | crce rd =>
    refine .ofChecked h (plainChecks rfl _ (by simp)) fun hn hg => ?_
    simp at hn
    split at hg
    · next hc => cases hg; exact .done _ _ (.crce rd hn hc) rfl
    · next hc => cases hg; exact .failed _ _ (.crce rd hn hc) rfl

/-- What no completed command touches before its response: the hardware, the host's coming moves, the source, the
streams' past, the last error (R60, R66, R97, R236). -/
theorem Done.outside {i : Instr} {s u : State} {v : Word} (h : Done i s u v) :
    u.cfg = s.cfg ∧ u.inbox = s.inbox ∧ u.src = s.src ∧ u.srcLen = s.srcLen ∧ u.responses = s.responses ∧
    u.seq = s.seq ∧ u.lasterr = s.lasterr ∧ u.lastcmd = s.lastcmd ∧ u.lastseq = s.lastseq := by
  cases h
  case csrw c _ _ _ => cases c <;> exact ⟨rfl, rfl, rfl, rfl, rfl, rfl, rfl, rfl, rfl⟩
  all_goals exact ⟨rfl, rfl, rfl, rfl, rfl, rfl, rfl, rfl, rfl⟩

/-- What no failing command touches but by the record of its error (R231). -/
theorem Failed.outside {i : Instr} {s u : State} {e : Err} (h : Failed i s u e) :
    u.cfg = s.cfg ∧ u.inbox = s.inbox ∧ u.src = s.src ∧ u.srcLen = s.srcLen ∧ u.responses = s.responses ∧
    u.seq = s.seq ∧ u.out = s.out ∧ u.isOpen = s.isOpen ∧ u.errlog = s.errlog := by
  cases h <;> exact ⟨rfl, rfl, rfl, rfl, rfl, rfl, rfl, rfl, rfl⟩

/-- ERRLOG is left but by a CSRW to it (R26). -/
theorem Done.errlog {i : Instr} {s u : State} {v : Word} (h : Done i s u v) :
    u.errlog = s.errlog ∨ ∃ ra, i = .csrw 0x01 ra ∧ u = s.clearErrlog (s.reg ra) := by
  cases h
  case csrw csr ra c hc _ _ =>
    by_cases e : c = .errlog
    · subst e; right; refine ⟨ra, ?_, rfl⟩
      congr 1
      unfold csrAt at hc
      split at hc
      · split at hc <;> simp at hc
      · split at hc <;> simp at hc; rfl
    · left; cases c <;> first | rfl | exact absurd rfl e
  all_goals exact .inl rfl

/-- The one response of an answered command, and the count (R21, R97, R230). -/
theorem Effect.response {i : Instr} {s t : State} (h : Effect i s t) :
    t.seq = s.seq + 1 ∧ ((∃ u v, Done i s u v ∧ t = u.complete v ∧ t.responses = s.responses ++ [⟨0#8, v⟩]) ∨
      ∃ u e, Failed i s u e ∧ t = u.raise e (encode i) ∧ t.responses = s.responses ++ [⟨e.code, 0#32⟩]) := by
  obtain ⟨u, v, D, rfl⟩ | ⟨u, e, F, rfl⟩ := h
  · obtain ⟨-, -, -, -, hr, hs, -⟩ := D.outside
    exact ⟨by simp [hs], .inl ⟨u, v, D, rfl, by simp [hr]⟩⟩
  · obtain ⟨-, -, -, -, hr, hs, -⟩ := F.outside
    exact ⟨by simp [hs], .inr ⟨u, e, F, rfl, by simp [hr]⟩⟩

/-- Which command a given response belongs to: it completed with that value, or failed with that error. -/
theorem Effect.of_response {i : Instr} {s t : State} {r : Response} (h : Effect i s t)
    (hr : t.responses = s.responses ++ [r]) :
    (r.status = 0#8 ∧ ∃ u, Done i s u r.value ∧ t = u.complete r.value) ∨
    (r.value = 0#32 ∧ ∃ u e, Failed i s u e ∧ t = u.raise e (encode i) ∧ r.status = e.code) := by
  obtain ⟨-, ⟨u, v, D, ht, h'⟩ | ⟨u, e, F, ht, h'⟩⟩ := h.response
  · have : r = ⟨0#8, v⟩ := by simpa using hr.symm.trans h'
    subst this; exact .inl ⟨rfl, u, D, ht⟩
  · have : r = ⟨e.code, 0#32⟩ := by simpa using hr.symm.trans h'
    subst this; exact .inr ⟨rfl, u, e, F, ht, rfl⟩

/-- While a session is open a command keeps of every filter instance what a step keeps (R8). -/
theorem Done.filters_kept {i : Instr} {s u : State} {v : Word} (h : Done i s u v) (ho : s.isOpen = true) (f : Fin 8) :
    Filter.Kept (s.filter f) (u.filter f) := by
  have one : ∀ (g : Fin 8) (x : Filter), Filter.Kept (s.filter g) x →
      Filter.Kept (s.filter f) ((s.setFilter g x).filter f) := by
    intro g x hx
    by_cases e : f = g
    · subst e; rw [filter_setFilter_same]; exact hx
    · rw [filter_setFilter_of_ne _ _ e]; exact .refl _
  have all : Filter.Kept (s.filter f) (s.flushAll.filter f) := by rw [filter_flushAll]; exact Filter.flush_kept _
  cases h
  case csrw c _ _ h2 =>
    have hc : c.cls ≠ .cfg := fun e => by rw [h2 e] at ho; cases ho
    cases c <;> first | exact absurd rfl hc | exact .refl _
  case openSession => exact all
  case seek => exact all
  case flusha => exact all
  case flushf => exact one _ _ (Filter.flush_kept _)
  case nnd h2 h3 => subst h3; exact one _ _ (Filter.nnd_kept _ _ _ h2)
  case nnc h2 h3 => subst h3; exact one _ _ (Filter.nnc_kept _ _ _ h2)
  case fod h2 h3 => subst h3; exact one _ _ (Filter.fod_kept _ _)
  case foc h2 h3 => subst h3; exact one _ _ (Filter.foc_kept _ _)
  case casd h3 => subst h3; exact cascade_kept (Filter.decodeStage_kept _ _) _ _ _ f
  case casc h3 => subst h3; exact cascade_kept (Filter.encodeStage_kept _ _) _ _ _ f
  all_goals exact .refl _

/-! ### Stops -/

/-- A checked command stops only where what it goes on with does. -/
theorem checked_stop {s : State} {w : Word} {cs : List (Bool × Err)} {go r : Result} (h : checked s w cs go = r)
    (hr : ∀ t, r ≠ .next t) : go = r := by
  unfold checked at h
  split at h
  · exact absurd h.symm (hr _)
  · exact h

/-- exec stops only where the byte source never answers the read of FILL, FILLR or SEEK (log 6). -/
theorem exec_stop {i : Instr} {s : State} {r : Result} (h : exec i s = r) (hr : ∀ t, r ≠ .next t) :
    r = .fault .sourceNeverAnswers ∧ i.readsSource = true ∧ s.nextAnswer = .never := by
  have from' : ∀ {w : Word} {pos bi : Nat} {u : State}, fillFrom w pos bi u = r → u.nextAnswer = s.nextAnswer →
      r = .fault .sourceNeverAnswers ∧ s.nextAnswer = .never := by
    intro w pos bi u hu hn
    unfold fillFrom at hu
    split at hu
    · exact absurd hu.symm (hr _)
    · exact absurd hu.symm (hr _)
    · next hb => exact ⟨hu.symm, hn ▸ State.srcRead_never.mp hb⟩
  cases i with
  | csrr rd csr => simp only [exec, execCsrr] at h; split at h <;> exact absurd h.symm (hr _)
  | csrw csr ra => have := checked_stop h hr; split at this <;> exact absurd this.symm (hr _)
  | decRice rd slot =>
    have := checked_stop h hr
    split at this
    · exact absurd this.symm (hr _)
    · split at this <;> exact absurd this.symm (hr _)
  | fill =>
    have := checked_stop h hr
    split at this
    · exact absurd this.symm (hr _)
    · split at this
      · exact absurd this.symm (hr _)
      · exact absurd this.symm (hr _)
      · next hb => exact ⟨this.symm, rfl, State.srcRead_never.mp hb⟩
  | fillr ra rb => have := from' (checked_stop h hr) rfl; exact ⟨this.1, rfl, this.2⟩
  | seek ra rb => have := from' (checked_stop h hr) rfl; exact ⟨this.1, rfl, this.2⟩
  | crce rd => have := checked_stop h hr; split at this <;> exact absurd this.symm (hr _)
  | nop => exact absurd h.symm (hr _)
  | li _ _ => exact absurd h.symm (hr _)
  | lih _ _ => exact absurd h.symm (hr _)
  | mov _ _ => exact absurd h.symm (hr _)
  | zz _ _ => exact absurd h.symm (hr _)
  | sat16 _ _ => exact absurd h.symm (hr _)
  | mono _ _ => exact absurd h.symm (hr _)
  | openSession => exact absurd (checked_stop h hr).symm (hr _)
  | closeSession => exact absurd (checked_stop h hr).symm (hr _)
  | decUint _ _ => exact absurd (checked_stop h hr).symm (hr _)
  | decXbits _ _ => exact absurd (checked_stop h hr).symm (hr _)
  | align => exact absurd (checked_stop h hr).symm (hr _)
  | nnd _ _ _ => exact absurd (checked_stop h hr).symm (hr _)
  | nnc _ _ _ => exact absurd (checked_stop h hr).symm (hr _)
  | fod _ _ _ => exact absurd (checked_stop h hr).symm (hr _)
  | foc _ _ _ => exact absurd (checked_stop h hr).symm (hr _)
  | casd _ _ _ => exact absurd (checked_stop h hr).symm (hr _)
  | casc _ _ _ => exact absurd (checked_stop h hr).symm (hr _)
  | flushf _ => exact absurd (checked_stop h hr).symm (hr _)
  | flusha => exact absurd (checked_stop h hr).symm (hr _)
  | ms2lr _ _ _ _ => exact absurd (checked_stop h hr).symm (hr _)
  | emit _ _ => exact absurd (checked_stop h hr).symm (hr _)
  | sil => exact absurd (checked_stop h hr).symm (hr _)
  | crcs => exact absurd (checked_stop h hr).symm (hr _)

end Sys2Proof.Machine
end

