-- ==== Sys2Proof/Laws/PerInstr.lean ====
section
/-! SUPPORT. Per command: its word has the fixed bits of its row of spec/opcode_table.json (R94). -/

/-- The word of the command matches its row: `w & mask = match`. -/
def Sys2Proof.Laws.RowMatch.Statement (i : Sys2Proof.Instr) : Prop :=
  Sys2Proof.encode i &&& i.row.mask = i.row.bits

namespace Sys2Proof.Laws

open Sys2Proof

theorem RowMatch.nop : RowMatch.Statement .nop := by
  unfold RowMatch.Statement; decide

theorem RowMatch.li (rd : Reg) (imm : Int) : RowMatch.Statement (.li rd imm) := by
  refine mask_eq_of_fields (b := 0x01000000#32) (m := 0xFF0F0000#32) [(16, 4), (24, 8)] (by decide) (by decide) ?_
  intro r hr
  simp only [List.mem_cons, List.not_mem_nil, or_false] at hr
  rcases hr with rfl | rfl <;>
    (rw [encode, field_encodeI (op := 0x01) (by decide)]; have := rd.isLt; simp [field]; try omega)

theorem RowMatch.lih (rd : Reg) (imm : Nat) : RowMatch.Statement (.lih rd imm) := by
  refine mask_eq_of_fields (b := 0x02000000#32) (m := 0xFF0F0000#32) [(16, 4), (24, 8)] (by decide) (by decide) ?_
  intro r hr
  simp only [List.mem_cons, List.not_mem_nil, or_false] at hr
  rcases hr with rfl | rfl <;>
    (rw [encode, field_encodeI (op := 0x02) (by decide)]; have := rd.isLt; simp [field]; try omega)

theorem RowMatch.mov (rd : Reg) (ra : Reg) : RowMatch.Statement (.mov rd ra) := by
  refine mask_eq_of_fields (b := 0x03000000#32) (m := 0xFF00FFFF#32) [(0, 16), (24, 8)] (by decide) (by decide) ?_
  intro r hr
  simp only [List.mem_cons, List.not_mem_nil, or_false] at hr
  rcases hr with rfl | rfl <;>
    (rw [encode, field_encodeR (op := 0x03) (by decide)]; have := rd.isLt; have := ra.isLt; simp [field]; try omega)

theorem RowMatch.csrr (rd : Reg) (csr : Nat) : RowMatch.Statement (.csrr rd csr) := by
  refine mask_eq_of_fields (b := 0x04000000#32) (m := 0xFF0FFF00#32) [(8, 12), (24, 8)] (by decide) (by decide) ?_
  intro r hr
  simp only [List.mem_cons, List.not_mem_nil, or_false] at hr
  rcases hr with rfl | rfl <;>
    (rw [encode, field_encodeR (op := 0x04) (by decide)]; have := rd.isLt; simp [field]; try omega)

theorem RowMatch.csrw (csr : Nat) (ra : Reg) : RowMatch.Statement (.csrw csr ra) := by
  refine mask_eq_of_fields (b := 0x05000000#32) (m := 0xFFF0FF00#32) [(8, 8), (20, 12)] (by decide) (by decide) ?_
  intro r hr
  simp only [List.mem_cons, List.not_mem_nil, or_false] at hr
  rcases hr with rfl | rfl <;>
    (rw [encode, field_encodeR (op := 0x05) (by decide)]; have := ra.isLt; simp [field]; try omega)

theorem RowMatch.openSession : RowMatch.Statement .openSession := by
  unfold RowMatch.Statement; decide

theorem RowMatch.closeSession : RowMatch.Statement .closeSession := by
  unfold RowMatch.Statement; decide

theorem RowMatch.decUint (rd : Reg) (n : Nat) : RowMatch.Statement (.decUint rd n) := by
  refine mask_eq_of_fields (b := 0x10000000#32) (m := 0xFF0FFF00#32) [(8, 12), (24, 8)] (by decide) (by decide) ?_
  intro r hr
  simp only [List.mem_cons, List.not_mem_nil, or_false] at hr
  rcases hr with rfl | rfl <;>
    (rw [encode, field_encodeD (m := 0) (by decide)]; have := rd.isLt; simp [field]; try omega)

theorem RowMatch.decRice (rd : Reg) (slot : Nat) : RowMatch.Statement (.decRice rd slot) := by
  refine mask_eq_of_fields (b := 0x10040000#32) (m := 0xFF0FFF00#32) [(8, 12), (24, 8)] (by decide) (by decide) ?_
  intro r hr
  simp only [List.mem_cons, List.not_mem_nil, or_false] at hr
  rcases hr with rfl | rfl <;>
    (rw [encode, field_encodeD (m := 1) (by decide)]; have := rd.isLt; simp [field]; try omega)

theorem RowMatch.decXbits (rd : Reg) (n : Nat) : RowMatch.Statement (.decXbits rd n) := by
  refine mask_eq_of_fields (b := 0x10080000#32) (m := 0xFF0FFF00#32) [(8, 12), (24, 8)] (by decide) (by decide) ?_
  intro r hr
  simp only [List.mem_cons, List.not_mem_nil, or_false] at hr
  rcases hr with rfl | rfl <;>
    (rw [encode, field_encodeD (m := 2) (by decide)]; have := rd.isLt; simp [field]; try omega)

theorem RowMatch.align : RowMatch.Statement .align := by
  unfold RowMatch.Statement; decide

theorem RowMatch.fill : RowMatch.Statement .fill := by
  unfold RowMatch.Statement; decide

theorem RowMatch.fillr (ra : Reg) (rb : Reg) : RowMatch.Statement (.fillr ra rb) := by
  refine mask_eq_of_fields (b := 0x13000000#32) (m := 0xFFF00FFF#32) [(0, 12), (20, 12)] (by decide) (by decide) ?_
  intro r hr
  simp only [List.mem_cons, List.not_mem_nil, or_false] at hr
  rcases hr with rfl | rfl <;>
    (rw [encode, field_encodeR (op := 0x13) (by decide)]; have := ra.isLt; have := rb.isLt; simp [field]; try omega)

theorem RowMatch.seek (ra : Reg) (rb : Reg) : RowMatch.Statement (.seek ra rb) := by
  refine mask_eq_of_fields (b := 0x14000000#32) (m := 0xFFF00FFF#32) [(0, 12), (20, 12)] (by decide) (by decide) ?_
  intro r hr
  simp only [List.mem_cons, List.not_mem_nil, or_false] at hr
  rcases hr with rfl | rfl <;>
    (rw [encode, field_encodeR (op := 0x14) (by decide)]; have := ra.isLt; have := rb.isLt; simp [field]; try omega)

theorem RowMatch.zz (rd : Reg) (ra : Reg) : RowMatch.Statement (.zz rd ra) := by
  refine mask_eq_of_fields (b := 0x15000000#32) (m := 0xFF00FFFF#32) [(0, 16), (24, 8)] (by decide) (by decide) ?_
  intro r hr
  simp only [List.mem_cons, List.not_mem_nil, or_false] at hr
  rcases hr with rfl | rfl <;>
    (rw [encode, field_encodeR (op := 0x15) (by decide)]; have := rd.isLt; have := ra.isLt; simp [field]; try omega)

theorem RowMatch.nnd (rd : Reg) (ra : Reg) (f : Nat) : RowMatch.Statement (.nnd rd ra f) := by
  refine mask_eq_of_fields (b := 0x20000000#32) (m := 0xFF00FF00#32) [(8, 8), (24, 8)] (by decide) (by decide) ?_
  intro r hr
  simp only [List.mem_cons, List.not_mem_nil, or_false] at hr
  rcases hr with rfl | rfl <;>
    (rw [encode, field_encodeR (op := 0x20) (by decide)]; have := rd.isLt; have := ra.isLt; simp [field]; try omega)

theorem RowMatch.nnc (rd : Reg) (ra : Reg) (f : Nat) : RowMatch.Statement (.nnc rd ra f) := by
  refine mask_eq_of_fields (b := 0x21000000#32) (m := 0xFF00FF00#32) [(8, 8), (24, 8)] (by decide) (by decide) ?_
  intro r hr
  simp only [List.mem_cons, List.not_mem_nil, or_false] at hr
  rcases hr with rfl | rfl <;>
    (rw [encode, field_encodeR (op := 0x21) (by decide)]; have := rd.isLt; have := ra.isLt; simp [field]; try omega)

theorem RowMatch.fod (rd : Reg) (ra : Reg) (f : Nat) : RowMatch.Statement (.fod rd ra f) := by
  refine mask_eq_of_fields (b := 0x22000000#32) (m := 0xFF00FF00#32) [(8, 8), (24, 8)] (by decide) (by decide) ?_
  intro r hr
  simp only [List.mem_cons, List.not_mem_nil, or_false] at hr
  rcases hr with rfl | rfl <;>
    (rw [encode, field_encodeR (op := 0x22) (by decide)]; have := rd.isLt; have := ra.isLt; simp [field]; try omega)

theorem RowMatch.foc (rd : Reg) (ra : Reg) (f : Nat) : RowMatch.Statement (.foc rd ra f) := by
  refine mask_eq_of_fields (b := 0x23000000#32) (m := 0xFF00FF00#32) [(8, 8), (24, 8)] (by decide) (by decide) ?_
  intro r hr
  simp only [List.mem_cons, List.not_mem_nil, or_false] at hr
  rcases hr with rfl | rfl <;>
    (rw [encode, field_encodeR (op := 0x23) (by decide)]; have := rd.isLt; have := ra.isLt; simp [field]; try omega)

theorem RowMatch.casd (rd : Reg) (ra : Reg) (ch : Nat) : RowMatch.Statement (.casd rd ra ch) := by
  refine mask_eq_of_fields (b := 0x24000000#32) (m := 0xFF00FF00#32) [(8, 8), (24, 8)] (by decide) (by decide) ?_
  intro r hr
  simp only [List.mem_cons, List.not_mem_nil, or_false] at hr
  rcases hr with rfl | rfl <;>
    (rw [encode, field_encodeR (op := 0x24) (by decide)]; have := rd.isLt; have := ra.isLt; simp [field]; try omega)

theorem RowMatch.casc (rd : Reg) (ra : Reg) (ch : Nat) : RowMatch.Statement (.casc rd ra ch) := by
  refine mask_eq_of_fields (b := 0x25000000#32) (m := 0xFF00FF00#32) [(8, 8), (24, 8)] (by decide) (by decide) ?_
  intro r hr
  simp only [List.mem_cons, List.not_mem_nil, or_false] at hr
  rcases hr with rfl | rfl <;>
    (rw [encode, field_encodeR (op := 0x25) (by decide)]; have := rd.isLt; have := ra.isLt; simp [field]; try omega)

theorem RowMatch.flushf (f : Nat) : RowMatch.Statement (.flushf f) := by
  refine mask_eq_of_fields (b := 0x26000000#32) (m := 0xFFFFFF00#32) [(8, 24)] (by decide) (by decide) ?_
  intro r hr
  simp only [List.mem_cons, List.not_mem_nil, or_false] at hr
  subst hr; rw [encode, field_encodeR (op := 0x26) (by decide)]; simp [field]; try omega

theorem RowMatch.flusha : RowMatch.Statement .flusha := by
  unfold RowMatch.Statement; decide

theorem RowMatch.sat16 (rd : Reg) (ra : Reg) : RowMatch.Statement (.sat16 rd ra) := by
  refine mask_eq_of_fields (b := 0x28000000#32) (m := 0xFF00FFFF#32) [(0, 16), (24, 8)] (by decide) (by decide) ?_
  intro r hr
  simp only [List.mem_cons, List.not_mem_nil, or_false] at hr
  rcases hr with rfl | rfl <;>
    (rw [encode, field_encodeR (op := 0x28) (by decide)]; have := rd.isLt; have := ra.isLt; simp [field]; try omega)

theorem RowMatch.ms2lr (rd : Reg) (rc : Reg) (ra : Reg) (rb : Reg) : RowMatch.Statement (.ms2lr rd rc ra rb) := by
  refine mask_eq_of_fields (b := 0x30000000#32) (m := 0xFF0000FF#32) [(0, 8), (24, 8)] (by decide) (by decide) ?_
  intro r hr
  simp only [List.mem_cons, List.not_mem_nil, or_false] at hr
  rcases hr with rfl | rfl <;>
    (rw [encode, field_encodeR (op := 0x30) (by decide)]; have := rd.isLt; have := rc.isLt; have := ra.isLt; have := rb.isLt; simp [field]; try omega)

theorem RowMatch.mono (rd : Reg) (ra : Reg) : RowMatch.Statement (.mono rd ra) := by
  refine mask_eq_of_fields (b := 0x31000000#32) (m := 0xFF00FFFF#32) [(0, 16), (24, 8)] (by decide) (by decide) ?_
  intro r hr
  simp only [List.mem_cons, List.not_mem_nil, or_false] at hr
  rcases hr with rfl | rfl <;>
    (rw [encode, field_encodeR (op := 0x31) (by decide)]; have := rd.isLt; have := ra.isLt; simp [field]; try omega)

theorem RowMatch.emit (ra : Reg) (rb : Reg) : RowMatch.Statement (.emit ra rb) := by
  refine mask_eq_of_fields (b := 0x32000000#32) (m := 0xFFF00FFF#32) [(0, 12), (20, 12)] (by decide) (by decide) ?_
  intro r hr
  simp only [List.mem_cons, List.not_mem_nil, or_false] at hr
  rcases hr with rfl | rfl <;>
    (rw [encode, field_encodeR (op := 0x32) (by decide)]; have := ra.isLt; have := rb.isLt; simp [field]; try omega)

theorem RowMatch.sil : RowMatch.Statement .sil := by
  unfold RowMatch.Statement; decide

theorem RowMatch.crcs : RowMatch.Statement .crcs := by
  unfold RowMatch.Statement; decide

theorem RowMatch.crce (rd : Reg) : RowMatch.Statement (.crce rd) := by
  refine mask_eq_of_fields (b := 0x39000000#32) (m := 0xFF0FFFFF#32) [(0, 20), (24, 8)] (by decide) (by decide) ?_
  intro r hr
  simp only [List.mem_cons, List.not_mem_nil, or_false] at hr
  rcases hr with rfl | rfl <;>
    (rw [encode, field_encodeR (op := 0x39) (by decide)]; have := rd.isLt; simp [field]; try omega)

end Sys2Proof.Laws
end

