-- ==== Sys2Proof/Tests/Slice0.lean ====
section
/-! SUPPORT. Tests: ill-formed commands, one decoded word per command written field by field, single steps against
spec/95_test_vectors.md and the examples of the rules, and for every obligation a state and operands that meet its
hypotheses, clause by clause. Expected results come from the spec. -/

namespace Sys2Proof.Tests

open Sys2Proof Sys2Proof.Machine

/-! ### Helpers -/

/-- The command was answered, and the next state satisfies the test. -/
def after (r : Result) (p : State → Bool) : Bool :=
  match r with
  | .next t => p t
  | _ => false

/-- The last response has this status and value. -/
def said (s : State) (status : Byte) (value : Word) : Bool := s.responses.getLast? == some ⟨status, value⟩

/-- The word `w` answers with this error (value 0). -/
def errs (w : Word) (s : State) (status : Byte) : Bool := after (runCommand w s) fun t => said t status 0#32

/-- An open session of that many channels and bits per sample. -/
def opened (channels bitsps : Nat) : State :=
  { State.reset with
    version := 3990
    channels := BitVec.ofNat 8 channels
    bitsps := BitVec.ofNat 8 bitsps
    isOpen := true }

/-- A session whose window holds the whole source `bs`, the cursor at `bitpos`, and whose source delivers. -/
def holding (s : State) (bs : List Byte) (bitpos : Nat) : State :=
  { s.withSource bs with
    win := bs
    bvalid := true
    bitpos := BitVec.ofNat 32 bitpos
    srcpos := BitVec.ofNat 32 bs.length
    furthest := BitVec.ofNat 32 bs.length
    srcsize := BitVec.ofNat 32 bs.length
    answers := [.ok, .ok] }

/-- The state with a register set. -/
def withReg (s : State) (i : Reg) (v : Word) : State := s.setReg i v

/-- The state with its coming host moves. -/
def hearing (s : State) (moves : List HostEvent) : State := { s with inbox := moves }

/-- The state on a hardware with a small window of 8 bytes and words of `W` bytes. -/
def small (W : Nat) (s : State) : State := { s with cfg := { s.cfg with bufBytes := 8, streamWordBytes := W } }

/-- A flushed order-16 predictor with shift 11 (95_test_vectors.md section 6.1). -/
def nn16 : Filter := Filter.flush { Filter.reset with ftype := 1, forder := 16, fshift := 11 }

/-- A flushed first-order stage with MULTIPLY 31, SHIFT 5 (95_test_vectors.md section 7.1). -/
def fo31 : Filter := { Filter.reset with ftype := 2, fshift := 5, fmul := 31 }

/-- The predictor of section 6.1 after its step 3. -/
def nnStep3 : Filter :=
  { nn16 with
    weights := List.replicate 14 0 ++ [16#16, BitVec.ofInt 16 (-64)]
    delta := [32#16, BitVec.ofInt 16 (-16), 8#16] ++ List.replicate 13 0
    hist := [3001#16, BitVec.ofInt 16 (-50), 100#16] ++ List.replicate 13 0
    avg := 195 }

/-- A stereo 16-bit session with an NN/FO cascade on each channel (section 7.2). -/
def cascaded : State :=
  let s := opened 2 16
  { s with filters := (((s.filters.set 0 nn16).set 1 fo31).set 4 nn16).set 5 fo31 }

/-- The source 0x10, 0x11, ... of sections 5.1 and 5.3. -/
def source20 : List Byte := (List.range 20).map fun i => BitVec.ofNat 8 (0x10 + i)

/-- Section 5.1's session: the first 8 of 20 bytes in the window, the cursor at `bitpos`. -/
def session51 (bitpos : Nat) : State :=
  { small 1 (opened 1 16) with
    src := Memory.ofBytes 0 source20
    srcLen := 20
    srcsize := 20
    win := source20.take 8
    bvalid := true
    bitpos := BitVec.ofNat 32 bitpos
    srcpos := 8
    furthest := 8
    answers := [.ok, .ok] }

/-! ### WellFormed refuses a number that does not fit its field (R91 to R95) -/

theorem test_wf_li_low : Instr.wellFormed (.li 1 (-32769)) = false := by decide
theorem test_wf_li_high : Instr.wellFormed (.li 1 32768) = false := by decide
theorem test_wf_lih : Instr.wellFormed (.lih 1 65536) = false := by decide
theorem test_wf_imm8 :
    [Instr.csrr 0 256, .csrw 256 0, .decUint 0 256, .decRice 0 256, .decXbits 0 256, .nnd 0 0 256, .nnc 0 0 256,
      .fod 0 0 256, .foc 0 0 256, .casd 0 0 256, .casc 0 0 256, .flushf 256].all (!·.wellFormed) = true := by decide
theorem test_wf_accepts :
    [Instr.li 15 (-32768), .li 15 32767, .lih 15 65535, .csrr 15 255, .decXbits 15 255, .ms2lr 3 4 1 2,
      .nop].all (·.wellFormed) = true := by decide

/-! ### Decoding, each word written field by field (R91 to R96, R102 and the words of 95_test_vectors.md) -/

/-- Format R: `op ‖ rd ‖ ra ‖ rb ‖ rc ‖ imm8` (R91). -/
def wordR (op : BitVec 8) (rd ra rb rc : BitVec 4) (imm8 : BitVec 8) : Word :=
  (op ++ rd ++ ra ++ rb ++ rc ++ imm8 : BitVec 32)

/-- Format I: `op ‖ rd ‖ 0000 ‖ imm16` (R92). -/
def wordI (op : BitVec 8) (rd : BitVec 4) (imm16 : BitVec 16) : Word := (op ++ rd ++ 0#4 ++ imm16 : BitVec 32)

/-- Format D: `op ‖ rd ‖ method ‖ 00 ‖ param2 ‖ param1` (R93). -/
def wordD (rd : BitVec 4) (method : BitVec 2) (param1 : BitVec 8) : Word :=
  (0x10#8 ++ rd ++ method ++ 0#2 ++ 0#8 ++ param1 : BitVec 32)

theorem test_decode_system :
    decode (wordR 0x00 0 0 0 0 0) = .command .nop ∧
    decode (wordI 0x01 2 0xB1E0) = .command (.li 2 (-20000)) ∧
    decode (wordI 0x02 2 0x0001) = .command (.lih 2 1) ∧
    decode (wordR 0x03 3 1 0 0 0) = .command (.mov 3 1) ∧
    decode (wordR 0x04 9 0 0 0 0x10) = .command (.csrr 9 0x10) ∧
    decode (wordR 0x05 0 1 0 0 0x08) = .command (.csrw 0x08 1) ∧
    decode (wordR 0x06 0 0 0 0 0) = .command .openSession ∧
    decode (wordR 0x07 0 0 0 0 0) = .command .closeSession := by decide

theorem test_decode_reader :
    decode (wordD 3 0 9) = .command (.decUint 3 9) ∧
    decode (wordD 4 1 1) = .command (.decRice 4 1) ∧
    decode (wordD 3 2 3) = .command (.decXbits 3 3) ∧
    decode (wordR 0x11 0 0 0 0 0) = .command .align ∧
    decode (wordR 0x12 0 0 0 0 0) = .command .fill ∧
    decode (wordR 0x13 0 1 2 0 0) = .command (.fillr 1 2) ∧
    decode (wordR 0x14 0 1 2 0 0) = .command (.seek 1 2) ∧
    decode (wordR 0x15 3 2 0 0 0) = .command (.zz 3 2) := by decide

theorem test_decode_filter :
    decode (wordR 0x20 4 3 0 0 4) = .command (.nnd 4 3 4) ∧
    decode (wordR 0x21 4 3 0 0 4) = .command (.nnc 4 3 4) ∧
    decode (wordR 0x22 3 2 0 0 1) = .command (.fod 3 2 1) ∧
    decode (wordR 0x23 3 2 0 0 1) = .command (.foc 3 2 1) ∧
    decode (wordR 0x24 4 3 0 0 1) = .command (.casd 4 3 1) ∧
    decode (wordR 0x25 3 2 0 0 0) = .command (.casc 3 2 0) ∧
    decode (wordR 0x26 0 0 0 0 7) = .command (.flushf 7) ∧
    decode (wordR 0x27 0 0 0 0 0) = .command .flusha ∧
    decode (wordR 0x28 3 2 0 0 0) = .command (.sat16 3 2) := by decide

theorem test_decode_output :
    decode (wordR 0x30 7 5 6 8 0) = .command (.ms2lr 7 8 5 6) ∧
    decode (wordR 0x31 3 1 0 0 0) = .command (.mono 3 1) ∧
    decode (wordR 0x32 0 7 8 0 0) = .command (.emit 7 8) ∧
    decode (wordR 0x33 0 0 0 0 0) = .command .sil ∧
    decode (wordR 0x38 0 0 0 0 0) = .command .crcs ∧
    decode (wordR 0x39 9 0 0 0 0) = .command (.crce 9) := by decide

/-- The field-by-field words are the spec's hexadecimal ones (R102). -/
theorem test_words :
    wordI 0x01 2 0xB1E0 = 0x0120B1E0#32 ∧ wordD 4 1 1 = 0x10440001#32 ∧ wordR 0x30 7 5 6 8 0 = 0x30756800#32 ∧
    wordR 0x05 0 1 0 0 8 = 0x05010008#32 := by decide

/-- Illegal words: the gaps of the map, DEC's method 3 and `param2`, a non-zero unused field (R98; section 3.3). -/
theorem test_decode_illegal :
    decode 0x08000000#32 = .illegal .unassignedOpcode ∧ decode 0xFF000000#32 = .illegal .unassignedOpcode ∧
    decode 0x102C0000#32 = .illegal .reservedMethod ∧ decode 0x10240100#32 = .illegal .nonzeroField ∧
    decode 0x00000001#32 = .illegal .nonzeroField ∧ decode 0x01010000#32 = .illegal .nonzeroField := by decide

/-- The step fetches the word withFetchWord places. -/
theorem test_fetch : after (step (State.reset.withFetchWord 32 0x01101234)) (fun t => t.reg 1 == 0x1234#32) = true := by
  decide

/-! ### Reset (R25, R47; section 12) -/

theorem test_reset_zero :
    [Csr.status, .errlog, .lasterr, .lastcmd, .lastseq, .seq, .version, .channels, .bitsps, .bytesps, .blockalign,
      .lagsel, .msround, .bitpos, .bitsheld, .srcpos, .furthest, .srcsize, .crcstored, .silcnt, .ftype 7, .forder 7,
      .fshift 7, .fmul 7, .favg 7, .flast 7].all (State.reset.csrValue · == 0#32) = true := by decide

theorem test_reset_nonzero :
    State.reset.csrValue (.rk 0) = 10#32 ∧ State.reset.csrValue (.rk 1) = 10#32 ∧
    State.reset.csrValue (.rksum 0) = 16384#32 ∧ State.reset.csrValue (.rksum 1) = 16384#32 ∧
    State.reset.csrValue .crcacc = 0xFFFFFFFF#32 := by decide

/-! ### Single steps -/

/-- R210: NOP counts and answers 0. -/
theorem test_nop : after (runCommand 0x00000000#32 State.reset)
    (fun t => t.seq == 1#32 && said t 0#8 0#32) = true := by decide

/-- Section 11.1. -/
theorem test_li : after (runCommand 0x01208000#32 State.reset)
    (fun t => t.reg 2 == 0xFFFF8000#32 && said t 0#8 0xFFFF8000#32) = true := by decide

/-- Section 11.1. -/
theorem test_lih : after (runCommand 0x0210FFFF#32 (withReg State.reset 1 0x00001234#32))
    (fun t => t.reg 1 == 0xFFFF1234#32) = true := by decide

/-- Section 11.1. -/
theorem test_mov : after (runCommand 0x03310000#32 (withReg State.reset 1 0xFFFF1234#32))
    (fun t => t.reg 3 == 0xFFFF1234#32) = true := by decide

/-- R31: BLOCKALIGN of a stereo 24-bit session is 6. -/
theorem test_csrr : after (runCommand 0x0440000C#32 (opened 2 24)) (fun t => t.reg 4 == 6#32) = true := by decide

/-- R214, 11.2 step 28: no register at 0x46; the record names the error. -/
theorem test_csrr_nonexistent : after (runCommand 0x04200046#32 State.reset)
    (fun t => t.lasterr == 0x02#8 && t.lastcmd == 0x04200046#32 && t.errlogWord == 0x4#32 && t.seq == 1#32)
    = true := by decide

/-- R215: VERSION keeps the low 16 bits. -/
theorem test_csrw : after (runCommand 0x05010008#32 (withReg State.reset 1 0x12345#32))
    (fun t => t.csrValue .version == 0x2345#32) = true := by decide

/-- R24, R26: ERRLOG clears the written ones; 0x120 has bits 8 and 5 (section 5.4). -/
theorem test_csrw_errlog :
    after (runCommand 0x05010001#32 (withReg { State.reset with errlog := 0x090 } 1 0x00000100#32))
      (fun t => t.errlogWord == 0x20#32) = true := by decide

/-- R216: a legal configuration opens, and the cursor is invalid: STATUS = 1. -/
theorem test_open :
    after (runCommand 0x06000000#32 { opened 2 16 with isOpen := false, crcstored := 7 })
      (fun t => t.statusWord == 1#32 && t.crcstored == 0#32 && said t 0#8 0#32) = true := by decide

/-- 11.2 step 1: after reset OPEN is InitializationError. -/
theorem test_open_after_reset : errs 0x06000000#32 State.reset 0x09#8 = true := by decide

/-- R217: CLOSE keeps the cursor position. -/
theorem test_close : after (runCommand 0x07000000#32 (holding (opened 1 16) [0xA5, 0x3C] 4))
    (fun t => t.statusWord == 0#32 && t.bitpos == 4#32) = true := by decide

/-- Section 2.1: bits 4 .. 12 of A5 3C. -/
theorem test_dec_uint : after (runCommand 0x10300009#32 (holding (opened 1 16) [0xA5, 0x3C, 0xFF, 0x00, 0x81] 4))
    (fun t => t.reg 3 == 0xA7#32 && t.bitpos == 13#32) = true := by decide

/-- Section 2.3: a read across a word boundary with STREAM_WORD_BYTES = 4. -/
theorem test_dec_xbits_words :
    after (runCommand 0x10380018#32 (small 4 (holding (opened 1 16)
      [0x12, 0x34, 0x56, 0x78, 0x9A, 0xBC, 0xDE, 0xF0] 12)))
      (fun t => t.reg 3 == 0x0063412F#32 && t.bitpos == 36#32) = true := by decide

/-- R114's example: value 1000, 11 bits, then (9, 16360). -/
theorem test_dec_rice : after (runCommand 0x10240000#32 (holding (opened 1 16) [0x7D, 0x00] 0))
    (fun t => t.reg 2 == 1000#32 && t.bitpos == 11#32 && t.rk.get 0 == 9#5 && t.rksum.get 0 == 16360#32)
    = true := by decide

/-- Section 3.2: a value of 3 · 2^31 is RiceOverflow and moves nothing. -/
theorem test_dec_rice_overflow :
    after (runCommand 0x10240000#32
      { holding (opened 1 16) [0xE0, 0, 0, 0, 0, 0] 0 with rk := (Vector.replicate 2 10#5).set 0 31#5 })
      (fun t => said t 0x07#8 0#32 && t.bitpos == 0#32 && t.rk.get 0 == 31#5) = true := by decide

/-- R122's example: 13 becomes 16. -/
theorem test_align : after (runCommand 0x11000000#32 (holding (opened 1 16) [0xA5, 0x3C] 13))
    (fun t => t.bitpos == 16#32) = true := by decide

/-- R123's example: the window 10 .. 17 at bit 20 becomes 12 .. 19 at bit 4. -/
theorem test_fill : after (runCommand 0x12000000#32 (session51 20))
    (fun t => t.win == [0x12, 0x13, 0x14, 0x15, 0x16, 0x17, 0x18, 0x19] && t.bitpos == 4#32 && t.srcpos == 10#32 &&
      t.furthest == 10#32) = true := by decide

/-- Section 5.4: a failing read is IOError and clears BVALID alone. -/
theorem test_fill_fails : after (runCommand 0x12000000#32 { session51 16 with answers := [.fail] })
    (fun t => said t 0x08#8 0#32 && !t.bvalid && t.bitpos == 16#32 && t.srcpos == 8#32) = true := by decide

/-- R124's example: position 5, bit 9: the window 15 .. 1C, the source position 13. -/
theorem test_fillr : after (runCommand 0x13012000#32 (withReg (withReg (session51 0) 1 5#32) 2 9#32))
    (fun t => t.win == [0x15, 0x16, 0x17, 0x18, 0x19, 0x1A, 0x1B, 0x1C] && t.bitpos == 9#32 && t.srcpos == 13#32)
    = true := by decide

/-- Section 5.3: position 20 of 20 bytes leaves no bit to start at. -/
theorem test_fillr_range : errs 0x13012000#32 (withReg (session51 0) 1 20#32) 0x02#8 = true := by decide

/-- Section 5.5: SEEK flushes the filters and leaves the Rice state. -/
theorem test_seek :
    after (runCommand 0x14012000#32 (withReg (withReg
        { session51 0 with filters := (session51 0).filters.set 0 nnStep3, rk := Vector.replicate 2 9 } 1 6#32) 2 3#32))
      (fun t => t.filter 0 == nn16 && t.bitpos == 3#32 && t.srcpos == 14#32 && t.rk.get 0 == 9#5) = true := by decide

/-- Section 4. -/
theorem test_zz : after (runCommand 0x15320000#32 (withReg State.reset 2 0x000007D0#32))
    (fun t => t.reg 3 == 0xFFFFFC18#32) = true := by decide

/-- Section 4: the wrap. -/
theorem test_zz_wraps : after (runCommand 0x15320000#32 (withReg State.reset 2 0xFFFFFFFF#32))
    (fun t => t.reg 3 == 0x80000000#32) = true := by decide

/-- Section 6.1, step 4: the history saturates, the output does not. -/
theorem test_nnd :
    after (runCommand 0x20320000#32 (withReg { opened 1 16 with filters := (opened 1 16).filters.set 0 nnStep3 }
        2 40000#32))
      (fun t => t.reg 3 == 39906#32 &&
        t.filter 0 == { nnStep3 with
          weights := List.replicate 13 0 ++ [8#16, 0#16, BitVec.ofInt 16 (-32)]
          delta := [32#16, 16#16, BitVec.ofInt 16 (-8), 8#16] ++ List.replicate 12 0
          hist := [32767#16, 3001#16, BitVec.ofInt 16 (-50), 100#16] ++ List.replicate 12 0
          avg := 2676 }) = true := by decide

/-- Section 6.4: compressing 39906 in that state gives 40000, and the state NND would leave. -/
theorem test_nnc :
    after (runCommand 0x21320000#32 (withReg { opened 1 16 with filters := (opened 1 16).filters.set 0 nnStep3 }
        2 39906#32))
      (fun t => t.reg 3 == 40000#32 && (t.filter 0).avg == 2676#32 && (t.filter 0).hist.head? == some 32767#16)
      = true := by decide

/-- Section 7.1: last = −207, input 1 gives −200 (the negative product shifts to minus infinity). -/
theorem test_fod :
    after (runCommand 0x22320001#32 (withReg { opened 1 16 with
        filters := (opened 1 16).filters.set 1 { fo31 with last := 0xFFFFFF31#32 } } 2 1#32))
      (fun t => t.reg 3 == 0xFFFFFF38#32 && (t.filter 1).last == 0xFFFFFF38#32) = true := by decide

/-- Section 7.1: last = 100, 97 gives 1, and `last` is the input. -/
theorem test_foc :
    after (runCommand 0x23320001#32 (withReg { opened 1 16 with
        filters := (opened 1 16).filters.set 1 { fo31 with last := 100 } } 2 97#32))
      (fun t => t.reg 3 == 1#32 && (t.filter 1).last == 97#32) = true := by decide

/-- Section 6.6: an instance of another kind. -/
theorem test_filter_type : errs 0x22320000#32 cascaded 0x0B#8 = true := by decide

/-- Section 7.2, first row: CASD on channel 1 gives 1000 for 1000, and steps instances 4 and 5 only. -/
theorem test_casd : after (runCommand 0x24430001#32 (withReg cascaded 3 1000#32))
    (fun t => t.reg 4 == 1000#32 && (t.filter 4).avg == 62#32 && (t.filter 5).last == 1000#32 && t.filter 0 == nn16)
    = true := by decide

/-- Section 7.2, rows 1 and 2: CASC runs FOC on instance 1 before NNC on instance 0: 1010 gives 42. -/
theorem test_casc :
    after (runCommand 0x25320000#32 (withReg cascaded 2 1000#32)) (fun t =>
      t.reg 3 == 1000#32 && after (runCommand 0x25320000#32 (withReg t 2 1010#32)) (fun u => u.reg 3 == 42#32))
      = true := by decide

/-- R161: FLUSHF zeroes the instance and keeps its configuration. -/
theorem test_flushf :
    after (runCommand 0x26000000#32 { opened 1 16 with filters := (opened 1 16).filters.set 0 nnStep3 })
      (fun t => t.filter 0 == nn16) = true := by decide

/-- R162. -/
theorem test_flusha :
    after (runCommand 0x27000000#32 { opened 1 16 with filters := (opened 1 16).filters.set 7 { fo31 with last := 9 } })
      (fun t => t.filter 7 == fo31) = true := by decide

/-- Section 8. -/
theorem test_sat16 : after (runCommand 0x28320000#32 (withReg State.reset 2 0xFFFEEE90#32))
    (fun t => t.reg 3 == 0xFFFF8000#32) = true := by decide

/-- Section 9: X = 100, Y = −7, MSROUND 0 and 1. -/
theorem test_ms2lr :
    after (runCommand 0x30312400#32 (withReg (withReg State.reset 1 100#32) 2 0xFFFFFFF9#32))
      (fun t => t.reg 3 == 96#32 && t.reg 4 == 103#32 && said t 0#8 96#32) = true ∧
    after (runCommand 0x30312400#32 (withReg (withReg { State.reset with msround := 1 } 1 100#32) 2 0xFFFFFFF9#32))
      (fun t => t.reg 3 == 97#32 && t.reg 4 == 104#32) = true := by decide

/-- Section 9: sources and destinations the same pair; and `rd = rc`. -/
theorem test_ms2lr_same :
    after (runCommand 0x30112200#32 (withReg (withReg State.reset 1 100#32) 2 7#32))
      (fun t => t.reg 1 == 104#32 && t.reg 2 == 97#32) = true ∧ errs 0x30312300#32 State.reset 0x02#8 = true := by
  decide

/-- R181. -/
theorem test_mono : after (runCommand 0x31310000#32 (withReg State.reset 1 77#32)) (fun t => t.reg 3 == 77#32)
    = true := by decide

/-- R190's example, R195's CRC of it. -/
theorem test_emit :
    after (runCommand 0x32012000#32 (withReg (withReg (opened 2 16) 1 0x00011234#32) 2 0xFFFFFFFE#32))
      (fun t => t.out == [0x34, 0x12, 0xFE, 0xFF] && t.crcacc == 0x196D1BB5#32) = true := by decide +kernel

/-- R67, section 10.3: the same with PCM_BIG_ENDIAN = 1. -/
theorem test_emit_big_endian :
    after (runCommand 0x32012000#32 (withReg (withReg { opened 2 16 with cfg := { Params.default with
        pcmBigEndian := true } } 1 0x00011234#32) 2 0xFFFFFFFE#32))
      (fun t => t.out == [0x12, 0x34, 0xFF, 0xFE]) = true := by decide

/-- Section 10.4: five silent blocks of 4 bytes. -/
theorem test_sil : after (runCommand 0x33000000#32 { opened 2 16 with silcnt := 5 })
    (fun t => t.out == List.replicate 20 0#8 && t.silcnt == 0#32 && t.crcacc == 0xFFFFFFFF#32) = true := by decide

/-- R193. -/
theorem test_crcs : after (runCommand 0x38000000#32 { opened 1 8 with crcacc := 5, ferr := true, crcstored := 3 })
    (fun t => t.crcacc == 0xFFFFFFFF#32 && !t.ferr && t.crcstored == 3#32) = true := by decide

/-- R195's example: a match. -/
theorem test_crce_match :
    after (runCommand 0x39900000#32 { opened 2 16 with crcacc := 0x196D1BB5#32, crcstored := 0xE692E44A#32 })
      (fun t => t.reg 9 == 1#32 && !t.ferr && said t 0#8 1#32) = true := by decide

/-- R195's example: a mismatch is the soft error; R26: ERRLOG bit 12. -/
theorem test_crce_mismatch :
    after (runCommand 0x39900000#32 (withReg { opened 2 16 with crcacc := 0x196D1BB5#32, crcstored := 1 } 9 5#32))
      (fun t => t.reg 9 == 0#32 && t.ferr && said t 0x0C#8 0#32 && t.errlogWord == 0x1000#32 && t.isOpen)
      = true := by decide

/-- R194, section 10.1: the check value of "123456789". -/
theorem test_crc_check_value :
    crcBytes 0xEDB88320#32 0xFFFFFFFF#32 [0x31, 0x32, 0x33, 0x34, 0x35, 0x36, 0x37, 0x38, 0x39] = 0x340BC6D9#32 ∧
    crcFinal Params.default 0x340BC6D9#32 = 0xCBF43926#32 := by decide +kernel

/-- R240's examples: session before operand, encoding before session, operand before cursor. -/
theorem test_priority :
    errs 0x10180028#32 State.reset 0x03#8 = true ∧ errs 0x101C0000#32 State.reset 0x01#8 = true ∧
    errs 0x10140002#32 (opened 1 16) 0x02#8 = true := by decide

/-- R98, R140: without the compress commands NNC is an illegal word, closed or open. -/
theorem test_no_compress :
    errs 0x21320000#32 { State.reset with cfg := { Params.default with hasCompress := false } } 0x01#8 = true := by
  decide

/-- R270: a reset inside EMIT may leave the first byte of the sample, and nothing else (93 U13). -/
theorem test_reset_during :
    after (step (hearing (withReg (opened 1 16) 1 0x1234#32) [.resetDuring 0x32010000#32 1]))
      (fun t => t.out == [0x34] && t.responses == [] && t.seq == 0#32 && !t.isOpen && t.reg 1 == 0#32) = true := by
  decide

/-! ### Witnesses: for each obligation a state and operands that meet its hypotheses, clause by clause -/

/-- A command word is answered with a next state that satisfies `p`. -/
theorem after_iff {r : Result} {p : State → Bool} : after r p = true ↔ ∃ t, r = .next t ∧ p t = true := by
  unfold after
  split
  · simp
  · simp_all

/-- Section 5.1's session is within the declared ranges. -/
theorem test_inv_session : (session51 20).Inv := by constructor <;> decide

/-- The same source, the session near its end: every bit of the last window consumed. -/
def sessionEnd : State := { session51 0 with win := source20.drop 16, bitpos := 32, srcpos := 20, furthest := 20 }

theorem test_inv_end : sessionEnd.Inv := by constructor <;> decide

theorem test_witness_DecodeOfEncode :
    [Instr.li 15 (-32768), .li 0 32767, .lih 3 65535, .nnd 1 2 255, .decRice 15 0].all (·.wellFormed) = true := by
  decide

theorem test_witness_EncodeOfDecode :
    decode 0x01108000#32 = .command (.li 1 (-32768)) ∧ decode 0x24F30001#32 = .command (.casd 15 3 1) := by decide

theorem test_witness_DecodeFollowsOpcodeTable :
    (Instr.li 0 0).row ∈ opcodeTable ∧ 0x01108000#32 &&& (Instr.li 0 0).row.mask = (Instr.li 0 0).row.bits := by decide

/-- One word for each way to be illegal, at the ends of each gap of the opcode map. -/
theorem test_witness_IllegalWordsRefused :
    let op := fun w : Word => field w 24 8
    (op 0x08000000#32 = 0x08 ∧ op 0x0F000000#32 = 0x0F ∧ op 0x16000000#32 = 0x16 ∧ op 0x1F000000#32 = 0x1F ∧
      op 0x29000000#32 = 0x29 ∧ op 0x2F000000#32 = 0x2F ∧ op 0x34000000#32 = 0x34 ∧ op 0x37000000#32 = 0x37 ∧
      op 0x3A000000#32 = 0x3A ∧ op 0xFF000000#32 = 0xFF) ∧
    (op 0x21000000#32 = 0x21 ∧ op 0x23000000#32 = 0x23 ∧ op 0x25000000#32 = 0x25) ∧
    (op 0x10000100#32 = 0x10 ∧ field 0x10000100#32 8 8 ≠ 0) ∧ (op 0x10010000#32 = 0x10 ∧ field 0x10010000#32 16 2 ≠ 0) ∧
    (op 0x100C0000#32 = 0x10 ∧ field 0x100C0000#32 18 2 = 3) ∧
    (∀ r ∈ opcodeTable, 0x03310001#32 &&& r.mask ≠ r.bits) ∧
    (hearing State.reset [.command 0x03310001#32]).inbox = .command 0x03310001#32 :: [] := by decide

theorem test_witness_StepRunsDecodedCommand :
    (hearing State.reset [.command 0x01101234#32, .reset]).inbox = .command 0x01101234#32 :: [.reset] ∧
    decode 0x01101234#32 = .command (.li 1 0x1234) ∧ State.reset.inbox = [] := by decide

theorem test_witness_ResetEventGivesResetValues :
    (hearing cascaded [.reset]).inbox = .reset :: [] ∧ Params.default.Legal := by decide

theorem test_witness_ResetInsideCommand :
    (hearing (opened 1 16) [.resetDuring 0x32010000#32 1]).inbox = .resetDuring 0x32010000#32 1 :: [] ∧
    after (runCommand 0x32010000#32 (opened 1 16)) (fun u => u.out == [0, 0]) = true := by decide

theorem test_witness_OneResponsePerCommand :
    after (runCommand 0x00000000#32 State.reset) (fun _ => true) = true ∧
    after (runCommand 0xFF000000#32 State.reset) (fun _ => true) = true := by decide

theorem test_witness_ErrorRecordKept :
    after (runCommand 0x07000000#32 State.reset) (fun t => t.responses == [⟨0x03#8, 0#32⟩]) = true ∧
    after (runCommand 0x05010001#32 State.reset) (fun t => t.responses == [⟨0x00#8, 0#32⟩]) = true := by decide

/-- The four kinds of error: hard, IOError of FILL, FILLR and SEEK, and the soft error. -/
theorem test_witness_HardErrorsKeepState :
    after (runCommand 0x10300021#32 (session51 0)) (fun t => t.responses == [⟨0x02#8, 0#32⟩]) = true ∧
    after (runCommand 0x12000000#32 { session51 20 with answers := [.fail] })
      (fun t => t.responses == [⟨0x08#8, 0#32⟩]) = true ∧
    after (runCommand 0x13012000#32 { session51 20 with answers := [.fail] })
      (fun t => t.responses == [⟨0x08#8, 0#32⟩]) = true ∧
    after (runCommand 0x14012000#32 { session51 20 with answers := [.fail] })
      (fun t => t.responses == [⟨0x08#8, 0#32⟩]) = true ∧
    after (runCommand 0x39900000#32 { opened 2 16 with crcstored := 1 })
      (fun t => t.responses == [⟨0x0C#8, 0#32⟩]) = true := by decide

theorem test_witness_NotOpenExactlyWhileClosed :
    (Instr.casc 1 2 255).needsOpen = true ∧ (Instr.casc 1 2 255).isCompress = true ∧ State.reset.isOpen = false ∧
    State.reset.cfg.hasCompress = true ∧
    after (exec .closeSession State.reset) (fun t => t.responses == [⟨0x03#8, 0#32⟩]) = true := by decide

/-- A register outside the destinations, a destination, and a hard error. -/
theorem test_witness_RegistersChangeOnlyAsDestination :
    (2 : Reg) ∉ (Instr.ms2lr 3 4 1 2).dests ∧ after (exec (.ms2lr 3 4 1 2) State.reset) (fun _ => true) = true ∧
    after (exec (.ms2lr 3 3 1 2) State.reset) (fun t => t.responses == [⟨0x02#8, 0#32⟩]) = true := by decide

theorem test_witness_SourceReadOnly :
    after (exec .fill (session51 20)) (fun t => t.reads == 1) = true ∧
    after (exec .fill sessionEnd) (fun t => t.reads == 0) = true := by decide

theorem test_witness_OutputAppendOnly :
    after (exec (.emit 1 2) (opened 1 8)) (fun t => t.out == [0]) = true ∧
    after (exec .sil { opened 1 8 with silcnt := 1 }) (fun t => t.out == [0]) = true ∧
    after (exec .crcs { opened 1 8 with crcacc := 0 }) (fun t => t.crcacc == 0xFFFFFFFF#32) = true := by decide

theorem test_witness_ConfigurationImmutableWhileOpen :
    after (exec (.csrw 0x18 1) (opened 1 16)) (fun _ => true) = true ∧ (opened 1 16).isOpen = true := by decide

/-- One command for each transition, from a state whose valid cursor is in an open session. -/
theorem test_witness_SessionTransitions :
    after (exec .openSession { opened 1 16 with isOpen := false }) (fun t => t.session == .initialized) = true ∧
    after (exec .closeSession (session51 0)) (fun t => t.session == .closed) = true ∧
    after (exec (.fillr 1 2) { session51 0 with bvalid := false }) (fun t => t.session == .decoding) = true ∧
    after (exec .fill { session51 20 with answers := [.fail] }) (fun t => t.session == .initialized) = true ∧
    ((session51 0).bvalid = true → (session51 0).isOpen = true) := by decide

theorem test_witness_FerrChangesOnlyByFrameCommands :
    after (exec (.crce 1) { opened 1 16 with crcstored := 1 }) (fun t => t.ferr != false) = true ∧
    after (exec .crcs { opened 1 16 with ferr := true }) (fun t => t.ferr != true) = true := by decide

theorem test_witness_FilterCommandsKeepOtherUnits :
    (Instr.casd 4 3 1).stepsFilter = true ∧ after (exec (.casd 4 3 1) cascaded) (fun _ => true) = true := by decide

/-- In the session of test_inv_session: `furthest` rises by a FILL, and stays at a FILLR further back. -/
theorem test_witness_FurthestOnlyRises :
    (session51 20).Inv ∧ (session51 20).isOpen = true ∧
    after (exec .fill (session51 20)) (fun t => t.furthest == 10#32) = true ∧
    after (exec (.fillr 1 2) (session51 20)) (fun t => t.furthest == 8#32) = true :=
  ⟨test_inv_session, by decide, by decide, by decide⟩

/-- The default parameters, and the smallest window of the widest word. -/
theorem test_witness_InvAtReset :
    Params.default.Legal ∧ { Params.default with streamWordBytes := 4, bufBytes := 8, maxOrder := 16 }.Legal := by decide

/-- A step from a state that satisfies the invariant: a FILL that reads, and a reset. -/
theorem test_witness_InvKeptByEveryStep :
    (session51 20).Inv ∧ after (step (session51 20)) (fun _ => true) = true ∧ sessionEnd.Inv :=
  ⟨test_inv_session, by decide, test_inv_end⟩

theorem test_witness_LoadImmediates :
    ((-32768 : Int) ≤ -32768 ∧ (-32768 : Int) ≤ 32767) ∧ ((-32768 : Int) ≤ 32767 ∧ (32767 : Int) ≤ 32767) ∧
    65535 < 65536 ∧ (field 0x01110000#32 24 8 = 0x01 ∧ field 0x01110000#32 16 4 ≠ 0) ∧
    (field 0x022F0000#32 24 8 = 0x02 ∧ field 0x022F0000#32 16 4 ≠ 0) := by decide

/-- The largest odd code and the largest even one; two runs that agree. -/
theorem test_witness_ZigzagBijection :
    ((withReg State.reset 2 0xFFFFFFFF#32).reg 2).toNat = 2 * 0x7FFFFFFF + 1 ∧
    ((withReg State.reset 2 0xFFFFFFFE#32).reg 2).toNat = 2 * 0x7FFFFFFF ∧
    after (exec (.zz 3 2) (State.reset.setReg 2 7#32)) (fun t => t.reg 3 == 4#32) = true := by decide

theorem test_witness_MidSideResult : (3 : Reg) = 3 ∧ (3 : Reg) ≠ 4 := by decide

/-- L = 96, R = 103 with MSROUND 0: X = R + tdiv(−7, 2) = 100, Y = −7 (section 9). -/
theorem test_witness_MidSideInverts :
    let s := withReg (withReg State.reset 1 100#32) 2 0xFFFFFFF9#32
    (3 : Reg) ≠ 4 ∧ s.reg 2 = 96#32 - 103#32 ∧
    s.reg 1 = 103#32 + BitVec.ofInt 32
      (if s.msround = 1 then (96#32 - 103#32).toInt / 2 else (96#32 - 103#32).toInt.tdiv 2) := by decide

/-- An address without a register at the ends of each gap; the last filter register. -/
theorem test_witness_CsrReads :
    (Spec.noAddress 0x23 ∧ Spec.noAddress 0x3F ∧ Spec.noAddress 0x46 ∧ Spec.noAddress 0x7F ∧ Spec.noAddress 0x80) ∧
    after (exec (.csrr 1 0x7D) { State.reset with filters := State.reset.filters.set 7 { fo31 with last := 9 } })
      (fun t => t.reg 1 == 9#32) = true := by
  unfold Spec.noAddress; decide

/-- No register; a read-only one; a configuration register in an open session and in a closed one; a writable one. -/
theorem test_witness_CsrWrites :
    Spec.noAddress 0x46 ∧ 0x7D ∈ Spec.roAddresses 7 ∧ 0x00 ∈ Spec.roAddresses 0 ∧
    ((0x7B, 32) ∈ Spec.cfgAddresses 7 ∧ (opened 1 16).isOpen = true ∧ State.reset.isOpen = false) ∧
    (0x22, 32) ∈ Spec.rwAddresses := by
  unfold Spec.noAddress; decide

/-- The addresses of R25's classes, with ERRLOG's, are the addresses that exist, and no two classes overlap. -/
theorem test_csr_classes : ∀ a < 256,
    let cfg := ((List.finRange 8).flatMap Spec.cfgAddresses).map Prod.fst
    let ro := (List.finRange 8).flatMap Spec.roAddresses
    let rw := Spec.rwAddresses.map Prod.fst
    let isCfg := cfg.contains a
    let isRo := ro.contains a
    let isRw := rw.contains a
    (isCfg || isRo || isRw || a == 0x01) = (csrAt a).isSome ∧
      (isCfg && isRo) = false ∧ (isCfg && isRw) = false ∧ (isRo && isRw) = false := by decide +kernel

theorem test_witness_CsrWriteFrame :
    csrAt 0x7B = some (.fmul 7) ∧
    after (exec (.csrw 0x7B 1) State.reset) (fun t => t.responses == [⟨0#8, 0#32⟩]) = true ∧
    (Csr.fmul 6 ≠ .fmul 7 ∧ Csr.fmul 6 ≠ .seq ∧ Csr.fmul 6 ≠ .bytesps ∧ Csr.fmul 6 ≠ .blockalign) := by decide

/-- The configuration of section 7.2, closed; the least version and the greatest. -/
theorem test_witness_OpenBeginsSession :
    let s := { cascaded with isOpen := false, version := 65535 }
    s.isOpen = false ∧ (Spec.headerLegal s) ∧ (∀ f, Spec.filterLegal s.cfg (s.filter f)) := by
  refine ⟨rfl, ?_, ?_⟩
  · unfold Spec.headerLegal; decide
  · unfold Spec.filterLegal; decide

/-- Open; a version of 0 (11.2 step 1); an order of 24 (11.2 step 15). -/
theorem test_witness_OpenRefusals :
    cascaded.isOpen = true ∧ ¬ Spec.headerLegal State.reset ∧
    (let s := { cascaded with isOpen := false, filters := cascaded.filters.set 0 { nn16 with forder := 24 } }
     s.isOpen = false ∧ Spec.headerLegal s ∧ ¬ Spec.filterLegal s.cfg (s.filter 0)) := by
  unfold Spec.headerLegal Spec.filterLegal; decide

theorem test_witness_CloseKeepsEverythingElse :
    cascaded.isOpen = true ∧ State.reset.isOpen = false ∧ (0x7B, 32) ∈ Spec.cfgAddresses 7 ∧
    (csrAt 0x7D = some (.flast 7) ∧ Csr.flast 7 ≠ .status ∧ Csr.flast 7 ≠ .seq) := by decide

/-- 32 bits of 40 (section 2.2); no bit at the end of the window; 33 bits; no cursor; one bit too many. -/
theorem test_witness_FixedWidthDecode :
    let s := holding (opened 1 16) [0x12, 0x34, 0x56, 0x78, 0x9A]
    ((s 0).isOpen = true ∧ (s 0).bvalid = true ∧ 32 ≤ 8 * (s 0).win.length - (s 0).bitpos.toNat) ∧
    (0 ≤ 8 * (s 40).win.length - (s 40).bitpos.toNat) ∧ 32 < 33 ∧ (opened 1 16).bvalid = false ∧
    8 * (s 32).win.length - (s 32).bitpos.toNat < 9 := by decide

/-- Section 3.1's first code (q = 0, k = 10); and three ones, a 0 and k = 31 (section 3.2): a value of 3 · 2^31. -/
theorem test_witness_RiceDecode :
    (let s := holding (opened 1 16) [0x7D, 0x00] 0
     s.isOpen = true ∧ s.bvalid = true ∧ (∀ j, j < 0 → Spec.bit 1 s.win (0 + j) = 1) ∧ Spec.bit 1 s.win 0 = 0 ∧
     0 + 0 + 1 + (s.rk.get 0).toNat ≤ 8 * s.win.length ∧ 0 * 2 ^ 10 + Spec.bits 1 s.win 1 10 < 2 ^ 32) ∧
    (let s := { holding (opened 1 16) [0xE0, 0, 0, 0, 0, 0] 0 with rk := Vector.replicate 2 31 }
     (∀ j, j < 3 → Spec.bit 1 s.win (0 + j) = 1) ∧ Spec.bit 1 s.win 3 = 0 ∧
     0 + 3 + 1 + (s.rk.get 0).toNat ≤ 8 * s.win.length ∧ 2 ^ 32 ≤ 3 * 2 ^ 31 + Spec.bits 1 s.win 4 31) := by decide

/-- Slot 2; no cursor; a window of ones; a 0 with too few remainder bits (section 3.2's first row has none). -/
theorem test_witness_RiceDecodeErrors :
    (opened 1 16).isOpen = true ∧ 2 ≤ 2 ∧ (opened 1 16).bvalid = false ∧
    (∀ j, j < 8 → Spec.bit 1 (holding (opened 1 16) [0xFF] 0).win (0 + j) = 1) ∧
    (let s := holding (opened 1 16) [0xFE] 0
     (∀ j, j < 7 → Spec.bit 1 s.win (0 + j) = 1) ∧ Spec.bit 1 s.win 7 = 0 ∧ 0 + 7 + 1 ≤ 8 * s.win.length ∧
     8 * s.win.length < 0 + 7 + 1 + (s.rk.get 0).toNat) := by decide

theorem test_witness_DefaultRiceAdaptation : 26 < (27#5).toNat := by decide

theorem test_witness_AlignToByte :
    (opened 1 16).bvalid = false ∧
    (let s := holding (opened 1 16) [0xA5, 0x3C] 16
     s.isOpen = true ∧ s.bvalid = true ∧ s.bitpos.toNat ≤ 8 * s.win.length ∧ 8 * s.win.length < 2 ^ 32) := by decide

/-- A FILL with bytes to read (n = 2) and one with none (n = 0). -/
theorem test_witness_FillRefillsWindow :
    (session51 20).Inv ∧ (session51 20).fillCount = 2 ∧ (session51 20).nextAnswer = .ok ∧
    sessionEnd.Inv ∧ sessionEnd.fillCount = 0 ∧ sessionEnd.isOpen = true ∧ sessionEnd.bvalid = true :=
  ⟨test_inv_session, by decide, by decide, test_inv_end, by decide, by decide, by decide⟩

/-- A FILL that leaves a full window, and one at the end of the source. -/
theorem test_witness_FillKeepsUnreadBits :
    (session51 20).Inv ∧ (session51 20).bvalid = true ∧
    after (exec .fill (session51 20)) (fun t => t.responses == [⟨0#8, 0#32⟩] && t.win.length == 8) = true ∧
    sessionEnd.Inv ∧ after (exec .fill sessionEnd) (fun t => t.responses == [⟨0#8, 0#32⟩] && t.srcpos == 20#32) = true :=
  ⟨test_inv_session, by decide, by decide, test_inv_end, by decide⟩

theorem test_witness_FailedReadIsIoError :
    let s := withReg (withReg { session51 20 with answers := [.fail] } 1 18#32) 2 15#32
    s.isOpen = true ∧ s.nextAnswer = .fail ∧ s.bvalid = true ∧ 0 < s.fillCount ∧
    Spec.rangeOk s (s.reg 1).toNat (s.reg 2).toNat := by
  unfold Spec.rangeOk; decide

/-- Section 5.3: position 18 of 20, bit 15 of the 16 there are. -/
theorem test_witness_RefillAtPosition :
    let s := withReg (withReg (session51 20) 1 18#32) 2 15#32
    s.Inv ∧ s.isOpen = true ∧ s.nextAnswer = .ok ∧ Spec.rangeOk s (s.reg 1).toNat (s.reg 2).toNat := by
  refine ⟨by constructor <;> decide, ?_⟩
  unfold Spec.rangeOk; decide

/-- Section 5.3: bit 16 of 16; position 21 of 20. -/
theorem test_witness_RefillOperandErrors :
    (session51 20).isOpen = true ∧ ¬ Spec.rangeOk (session51 20) 18 16 ∧ ¬ Spec.rangeOk (session51 20) 21 0 ∧
    (opened 1 16).bvalid = false := by
  unfold Spec.rangeOk; decide

theorem test_witness_SeekIsFlushThenRefill :
    after (exec (.seek 1 2) (session51 0)) (fun t => t.responses == [⟨0#8, 0#32⟩]) = true := by decide

theorem test_witness_NndStep :
    cascaded.isOpen = true ∧ (cascaded.filter 4).ftype = 1 ∧ (cascaded.filter 4).Sized ∧
    16 ≤ Spec.N (cascaded.filter 4) ∧ (cascaded.filter 4).avg.toNat < 2 ^ 31 := by
  unfold Spec.N; decide

theorem test_witness_NncStep :
    cascaded.isOpen = true ∧ cascaded.cfg.hasCompress = true ∧ (cascaded.filter 0).ftype = 1 ∧
    (cascaded.filter 0).Sized ∧ 16 ≤ Spec.N (cascaded.filter 0) ∧ (cascaded.filter 0).avg.toNat < 2 ^ 31 := by
  unfold Spec.N; decide

/-- At the thresholds with avg = 195: 586, 585 and 261, 260 and 1 (R146). -/
theorem test_witness_BucketValues :
    (3 * 195 < 586) ∧ (585 ≤ 3 * 195 ∧ 4 * 195 / 3 < 585) ∧ (261 ≤ 3 * 195 ∧ 4 * 195 / 3 < 261) ∧
    (260 ≤ 3 * 195 ∧ 260 ≤ 4 * 195 / 3 ∧ 0 < 260) ∧ (1 ≤ 4 * 195 / 3 ∧ 0 < 1) := by decide

theorem test_witness_FirstOrderSteps :
    cascaded.isOpen = true ∧ (cascaded.filter 1).ftype = 2 ∧ cascaded.cfg.hasCompress = true := by decide

/-- An instance of 8 and one of another kind, for NND and FOD where the compress commands do not exist, too. -/
theorem test_witness_StageCommandErrors :
    cascaded.isOpen = true ∧ cascaded.cfg.hasCompress = true ∧ 8 ≤ 8 ∧ (cascaded.filter 7).ftype.toNat ≠ 1 ∧
    (cascaded.filter 0).ftype.toNat ≠ 2 ∧
    (let s := { cascaded with cfg := { cascaded.cfg with hasCompress := false } }
     s.isOpen = true ∧ s.cfg.hasCompress = false ∧ (s.filter 7).ftype.toNat ≠ 1) := by decide

/-- Channel 1 of two; channel 2 of two; channel 1 of one. -/
theorem test_witness_CascadeResult :
    cascaded.isOpen = true ∧ (1 : Fin 2).val < cascaded.channels.toNat ∧ cascaded.cfg.hasCompress = true ∧
    cascaded.channels.toNat ≤ 2 ∧ (opened 1 16).channels.toNat ≤ 1 := by decide

theorem test_witness_StageRoundTrip :
    (0 : Fin 8) ≠ 4 ∧ cascaded.isOpen = true ∧ cascaded.cfg.hasCompress = true ∧ cascaded.filter 0 = cascaded.filter 4 ∧
    (cascaded.filter 0).ftype = 1 ∧ cascaded.filter 1 = cascaded.filter 5 ∧ (cascaded.filter 1).ftype = 2 := by decide

theorem test_witness_CascadeRoundTrip :
    cascaded.isOpen = true ∧ cascaded.cfg.hasCompress = true ∧ 2 ≤ cascaded.channels.toNat ∧
    ∀ (t : Nat) (h : t < 4), cascaded.filter ⟨t, by omega⟩ = cascaded.filter ⟨4 + t, by omega⟩ := by decide

theorem test_witness_FlushResult : cascaded.isOpen = true ∧ State.reset.isOpen = false ∧ 8 ≤ 8 := by decide

theorem test_witness_FlushedStageStaysZero :
    cascaded.isOpen = true ∧ cascaded.reg 2 = 0 ∧ cascaded.filter 0 = Spec.flushed (cascaded.filter 0) ∧
    (cascaded.filter 0).ftype = 1 ∧ 1 ≤ (cascaded.filter 0).fshift.toNat ∧
    cascaded.filter 1 = Spec.flushed (cascaded.filter 1) ∧ (cascaded.filter 1).ftype = 2 := by decide

/-- A residual of 0 into a flushed predictor gives a sample of 0; a sample of 0 into NNC. -/
theorem test_witness_ZeroSampleKeepsWeights :
    cascaded.cfg.adaptDir = .sample ∧ (cascaded.filter 0).ftype = 1 ∧ (cascaded.filter 0).Sized ∧
    after (exec (.nnd 3 2 0) cascaded) (fun t => t.responses == [⟨0#8, 0#32⟩]) = true ∧
    after (exec (.nnc 3 2 0) cascaded) (fun _ => true) = true ∧ cascaded.reg 2 = 0#32 := by decide

theorem test_witness_EmitResult :
    (opened 1 8).isOpen = true ∧ (opened 1 8).channels = 1 ∧ (opened 1 8).bitsps = 8 ∧ (opened 2 24).channels = 2 ∧
    (opened 2 24).bitsps = 24 ∧ State.reset.isOpen = false := by decide

theorem test_witness_SilenceAndFrameStart : (opened 2 16).isOpen = true ∧ State.reset.isOpen = false := by decide

/-- Section 10.2: an empty frame matches a stored CRC of 0 and no other. -/
theorem test_witness_FrameEndVerdict :
    (opened 1 16).isOpen = true ∧ Spec.crcFinal (opened 1 16).cfg (opened 1 16).crcacc = (opened 1 16).crcstored ∧
    Spec.crcFinal (opened 1 16).cfg (opened 1 16).crcacc ≠ ({ opened 1 16 with crcstored := 1 } : State).crcstored ∧
    State.reset.isOpen = false := by
  decide

end Sys2Proof.Tests
end

section
/-! PROOFS. What a move of the host runs (R13, R258), and the configuration kept while a session is open (R8, R24). -/

namespace Sys2Proof.Machine

/-! ### One step, by the host's next move -/

theorem step_of_inbox_nil {s : State} (h : s.inbox = []) : step s = .next s := by
  simp only [step, h]

theorem step_of_inbox_command {s : State} {w : Word} {rest : List HostEvent} (h : s.inbox = .command w :: rest) :
    step s = runCommand w { s with inbox := rest } := by
  simp only [step, h]

theorem runCommand_of_decode_command {w : Word} {i : Instr} (h : decode w = .command i) (s : State) :
    runCommand w s = exec i s := by
  simp only [runCommand, h]

/-- Settles O6: the step takes the word from the inbox, and the word runs what it decodes to. -/
theorem stepRunsDecodedCommand : Obligations.StepRunsDecodedCommand := by
  refine ⟨fun s w rest i hin hdec => ?_, fun s => step_of_inbox_nil⟩
  calc step s = runCommand w { s with inbox := rest } := step_of_inbox_command hin
    _ = exec i { s with inbox := rest } := runCommand_of_decode_command hdec _

/-! ### The configuration registers -/

/-- Every register of class CFG (R24, R25) reads alike in the two states; of the filter instances, which hold some of
them, whatever a step keeps is kept. -/
structure ConfigKept (s t : State) : Prop where
  version : t.version = s.version
  channels : t.channels = s.channels
  bitsps : t.bitsps = s.bitsps
  lagsel : t.lagsel = s.lagsel
  msround : t.msround = s.msround
  filters : ∀ f, Filter.Kept (s.filter f) (t.filter f)

/-- A CSR write changes VERSION, CHANNELS, BITSPS, LAGSEL and MSROUND only where it names one of them (R24, R215). -/
theorem csrSet_header_of_cls_ne_cfg {c : Csr} (hc : c.cls ≠ .cfg) (s : State) (v : Word) :
    (s.csrSet c v).version = s.version ∧ (s.csrSet c v).channels = s.channels ∧
    (s.csrSet c v).bitsps = s.bitsps ∧ (s.csrSet c v).lagsel = s.lagsel ∧ (s.csrSet c v).msround = s.msround := by
  cases c
  case version | channels | bitsps | lagsel | msround => exact absurd rfl hc
  all_goals exact ⟨rfl, rfl, rfl, rfl, rfl⟩

/-- Only CSRW can write a configuration register, and its second check bars that while a session is open (R215). -/
theorem Done.configKept {i : Instr} {s u : State} {v : Word} (h : Done i s u v) (ho : s.isOpen = true) :
    ConfigKept s u := by
  have hf := h.filters_kept ho
  cases h
  case csrw ra c _ _ hclosed =>
    have hc : c.cls ≠ .cfg := fun e => by simp [hclosed e] at ho
    obtain ⟨hv, hch, hb, hl, hm⟩ := csrSet_header_of_cls_ne_cfg hc s (s.reg ra)
    exact ⟨hv, hch, hb, hl, hm, hf⟩
  all_goals exact ⟨rfl, rfl, rfl, rfl, rfl, hf⟩

/-- An error keeps every configuration register: the flush of a SEEK that fails keeps them too (R161, R233). -/
theorem Failed.configKept {i : Instr} {s u : State} {e : Err} (h : Failed i s u e) : ConfigKept s u := by
  cases h
  case seek =>
    have hflush : ∀ f, Filter.Kept (s.filter f) (s.flushAll.filter f) := fun f => by
      rw [filter_flushAll]; exact Filter.flush_kept _
    exact ⟨rfl, rfl, rfl, rfl, rfl, hflush⟩
  all_goals exact ⟨rfl, rfl, rfl, rfl, rfl, fun _ => .refl _⟩

theorem ConfigKept.complete {s u : State} (h : ConfigKept s u) (v : Word) : ConfigKept s (u.complete v) :=
  ⟨h.version, h.channels, h.bitsps, h.lagsel, h.msround, h.filters⟩

theorem ConfigKept.raise {s u : State} (h : ConfigKept s u) (e : Err) (w : Word) : ConfigKept s (u.raise e w) :=
  ⟨h.version, h.channels, h.bitsps, h.lagsel, h.msround, h.filters⟩

/-- While a session is open an answered command keeps the configuration (R8, R24). -/
theorem exec_configKept {i : Instr} {s t : State} (h : exec i s = .next t) (ho : s.isOpen = true) :
    ConfigKept s t := by
  obtain ⟨u, v, hd, rfl⟩ | ⟨u, e, hf, rfl⟩ := exec_effect h
  · exact (hd.configKept ho).complete v
  · exact hf.configKept.raise e _

/-- Settles O17, by the cases of what a command can do (`exec_effect`). -/
theorem configurationImmutableWhileOpen : Obligations.ConfigurationImmutableWhileOpen := by
  intro i s t h ho
  obtain ⟨hv, hch, hb, hl, hm, hfs⟩ := exec_configKept h ho
  exact ⟨hv, hch, hb, hl, hm, fun f => ⟨(hfs f).ftype, (hfs f).forder, (hfs f).fshift, (hfs f).fmul⟩⟩

end Sys2Proof.Machine
end

section
/-! PROOFS. What a reset makes of the state (R47, R270, R271), and what each move of the host can answer (R13). -/

namespace Sys2Proof.Machine

/-! ### The reset state -/

@[simp] theorem filter_resetOf (p : Params) (f : Fin 8) : (State.resetOf p).filter f = Filter.reset := by
  simp [State.filter, State.resetOf, Vector.get_eq_getElem]

@[simp] theorem reg_resetOf (p : Params) (r : Reg) : (State.resetOf p).reg r = 0 := by
  simp [State.reg, State.resetOf, Vector.get_eq_getElem]

theorem rk_resetOf (p : Params) (i : Fin 2) : (State.resetOf p).rk.get i = p.riceKReset := by
  simp [State.resetOf, Vector.get_eq_getElem]

theorem rksum_resetOf (p : Params) (i : Fin 2) : (State.resetOf p).rksum.get i = p.riceKsumReset := by
  simp [State.resetOf, Vector.get_eq_getElem]

/-- A reset puts every piece of the block's own state to its reset value (R47, R270). -/
theorem atReset_hwReset (s : State) : Spec.AtReset s.hwReset := by
  exact ⟨reg_resetOf s.cfg, rfl, rfl, rfl, rfl, rfl, rfl, rfl, rfl, rfl, rfl, rfl, rfl, rfl, rfl, rfl, rfl, rfl, rfl,
    rfl, rk_resetOf s.cfg, rksum_resetOf s.cfg, rfl, rfl, rfl, filter_resetOf s.cfg⟩

/-! ### Errors in the spec's form -/

theorem raise_eq_errAfter (s : State) (e : Err) (w : Word) : s.raise e w = Spec.errAfter s e.code w := rfl

/-- OPEN refuses a closed session whose VERSION, CHANNELS or BITSPS is not legal (R216). -/
theorem exec_openSession_of_not_headerOk {s : State} (hc : s.isOpen = false) (hh : s.headerOk = false) :
    exec .openSession s = .next (s.raise .initializationError (encode .openSession)) :=
  checked_fail _ (by simp [State.openChecks, hc, hh])

/-- Every hardware has VER_MIN of 1 or more, so the reset VERSION of 0 is not legal (R7, R30). -/
theorem headerOk_hwReset_eq_false {s : State} (hp : s.cfg.Legal) : s.hwReset.headerOk = false := by
  obtain ⟨-, -, -, -, -, hmin, -⟩ := hp
  have hv : ¬ s.cfg.verMin ≤ s.hwReset.version.toNat := by
    change ¬ s.cfg.verMin ≤ 0
    omega
  simp [State.headerOk, hv]

/-! ### One step, by a reset of the host -/

theorem step_of_inbox_reset {s : State} {rest : List HostEvent} (h : s.inbox = .reset :: rest) :
    step s = .next (State.hwReset { s with inbox := rest }) := by
  simp only [step, h]

theorem step_of_inbox_resetDuring {s : State} {w : Word} {k : Nat} {rest : List HostEvent}
    (h : s.inbox = .resetDuring w k :: rest) : step s = resetCommand w k { s with inbox := rest } := by
  simp only [step, h]

/-- A reset inside a command is a reset after some bytes have been appended (R270, log 10). -/
theorem resetCommand_next {w : Word} {k : Nat} {s t : State} (h : resetCommand w k s = .next t) :
    ∃ bs, t = (s.append bs).hwReset := by
  have hnil : s.append [] = s := by simp [State.append]
  unfold resetCommand at h
  split at h
  · exact ⟨_, by cases h; rfl⟩
  · exact ⟨[], by cases h; rw [hnil]⟩
  · exact ⟨[], by cases h; rw [hnil]⟩

/-- Settles O7: the reset values are `State.resetOf`'s, and of them VERSION 0 is what OPEN refuses. -/
theorem resetEventGivesResetValues : Obligations.ResetEventGivesResetValues := by
  intro s rest hin
  refine ⟨_, step_of_inbox_reset hin, atReset_hwReset _, rfl, rfl, rfl, rfl, rfl, rfl, rfl, rfl, fun hp => ?_⟩
  exact exec_openSession_of_not_headerOk rfl (headerOk_hwReset_eq_false hp)

end Sys2Proof.Machine
end

section
/-! PROOFS. The declared ranges (R40, R41, 93_implementation_defined.md U8) hold at reset, and every step keeps them.
The clauses of the invariant stand in three groups: the cursor, the open session, the rest. -/

namespace Sys2Proof.Machine

/-! ### The clauses in groups -/

/-- R40's ranges of a cursor over the source `m` on a hardware with parameters `p`. -/
structure CursorRanges (p : Params) (m : Memory) (win : List Byte) (bitpos srcpos furthest srcsize : Word) : Prop where
  bitposLe : bitpos.toNat ≤ 8 * win.length
  winWords : win.length % p.streamWordBytes = 0
  winCap : win.length ≤ p.bufBytes
  srcposLe : srcpos.toNat ≤ srcsize.toNat
  furthestGe : srcpos.toNat ≤ furthest.toNat
  furthestLe : furthest.toNat ≤ srcsize.toNat
  winBehind : win.length ≤ srcpos.toNat
  winBytes : win = m.readBytes (srcpos.toNat - win.length) win.length

/-- The cursor of the state is within its ranges. -/
def State.CursorInv (s : State) : Prop :=
  CursorRanges s.cfg s.src s.win s.bitpos s.srcpos s.furthest s.srcsize

/-- What holds of an open session: the size OPEN has asked for, a legal configuration, N taps per predictor. -/
structure State.SessionInv (s : State) : Prop where
  size : s.srcsize.toNat = s.srcLen
  header : s.headerOk = true
  filters : s.filtersOk = true
  sized : ∀ f, (s.filter f).Sized

theorem State.Inv.cursor {s : State} (h : s.Inv) : s.CursorInv :=
  ⟨h.bitposLe, h.winWords, h.winCap, h.srcposLe, h.furthestGe, h.furthestLe, h.winBehind, h.winBytes⟩

theorem State.Inv.session {s : State} (h : s.Inv) (ho : s.isOpen = true) : s.SessionInv :=
  ⟨h.sizeOpen ho, h.headerOpen ho, h.filtersOpen ho, h.sizedOpen ho⟩

/-- The invariant from its groups. -/
theorem State.Inv.of_parts {s : State} (hcfg : s.cfg.Legal) (hwf : s.src.wf) (hbound : ∀ c ∈ s.src, c.1 < s.srcLen)
    (hcur : s.CursorInv) (hses : s.isOpen = true → s.SessionInv) (hval : s.bvalid = true → s.isOpen = true)
    (havg : ∀ f, (s.filter f).avg.toNat < 2 ^ 31) (herr : s.lasterr.toNat ≤ 12) : s.Inv where
  cfgLegal := hcfg
  srcWf := hwf
  srcBound := hbound
  bitposLe := hcur.bitposLe
  winWords := hcur.winWords
  winCap := hcur.winCap
  srcposLe := hcur.srcposLe
  furthestGe := hcur.furthestGe
  furthestLe := hcur.furthestLe
  winBehind := hcur.winBehind
  winBytes := hcur.winBytes
  sizeOpen ho := (hses ho).size
  validOpen := hval
  headerOpen ho := (hses ho).header
  filtersOpen ho := (hses ho).filters
  sizedOpen ho := (hses ho).sized
  avgBound := havg
  lasterrCode := herr

/-- In the next state, with the same hardware and source, only the other groups are to be shown. -/
theorem State.Inv.next {s u : State} (h : s.Inv) (hcfg : u.cfg = s.cfg) (hsrc : u.src = s.src)
    (hlen : u.srcLen = s.srcLen) (hcur : u.CursorInv) (hses : u.isOpen = true → u.SessionInv)
    (hval : u.bvalid = true → u.isOpen = true) (havg : ∀ f, (u.filter f).avg.toNat < 2 ^ 31)
    (herr : u.lasterr.toNat ≤ 12) : u.Inv :=
  .of_parts (hcfg ▸ h.cfgLegal) (hsrc ▸ h.srcWf) (by rw [hsrc, hlen]; exact h.srcBound) hcur hses hval havg herr

/-! ### Updates of fields no clause reads, errors and resets -/

section
variable {s : State} (h : s.Inv)
include h

/-- No clause reads the host's coming moves, the two streams or SEQ. -/
theorem State.Inv.withStreams (es : List HostEvent) (rs : List Response) (bs : List Byte) (n : Word) :
    State.Inv { s with inbox := es, responses := rs, out := bs, seq := n } :=
  h.next rfl rfl rfl h.cursor (fun ho => ⟨h.sizeOpen ho, h.headerOpen ho, h.filtersOpen ho, h.sizedOpen ho⟩)
    h.validOpen h.avgBound h.lasterrCode

theorem State.Inv.record (e : Err) (w : Word) : (s.record e w).Inv :=
  h.next rfl rfl rfl h.cursor (fun ho => ⟨h.sizeOpen ho, h.headerOpen ho, h.filtersOpen ho, h.sizedOpen ho⟩)
    h.validOpen h.avgBound e.code_bounds.2

theorem State.Inv.withInbox (es : List HostEvent) : State.Inv { s with inbox := es } :=
  h.withStreams es s.responses s.out s.seq

theorem State.Inv.append (bs : List Byte) : (s.append bs).Inv :=
  h.withStreams s.inbox s.responses (s.out ++ bs) s.seq

theorem State.Inv.respond (status : Byte) (v : Word) : (s.respond status v).Inv :=
  h.withStreams s.inbox (s.responses ++ [Response.mk status v]) s.out (s.seq + 1)

theorem State.Inv.complete (v : Word) : (s.complete v).Inv := h.respond _ v

theorem State.Inv.raise (e : Err) (w : Word) : (s.raise e w).Inv := (h.record e w).respond _ _

end

/-- The cursor OPEN and reset make, an empty window at position 0, is within its ranges whatever the size. -/
theorem CursorRanges.empty (p : Params) (m : Memory) (srcsize : Word) : CursorRanges p m [] 0 0 0 srcsize where
  bitposLe := Nat.zero_le _
  winWords := Nat.zero_mod _
  winCap := Nat.zero_le _
  srcposLe := Nat.zero_le _
  furthestGe := Nat.le_refl _
  furthestLe := Nat.zero_le _
  winBehind := Nat.le_refl _
  winBytes := rfl

theorem avgBound_resetOf (p : Params) (f : Fin 8) : ((State.resetOf p).filter f).avg.toNat < 2 ^ 31 := by
  simp [Filter.reset]

theorem State.Inv.hwReset {s : State} (h : s.Inv) : s.hwReset.Inv :=
  h.next rfl rfl rfl (CursorRanges.empty _ _ _) nofun nofun (avgBound_resetOf s.cfg) (Nat.zero_le _)

/-- Settles O22: the empty cursor of a closed session, the empty source, averages of 0. -/
theorem invAtReset : Obligations.InvAtReset := fun p hp =>
  .of_parts hp Memory.reset_wf nofun (CursorRanges.empty _ _ _) nofun nofun (avgBound_resetOf p) (Nat.zero_le _)

/-! ### The cursor -/

/-- The bit position may move anywhere inside the window (R40). -/
theorem CursorRanges.moveTo {p : Params} {m : Memory} {win : List Byte} {bitpos srcpos furthest srcsize : Word}
    (h : CursorRanges p m win bitpos srcpos furthest srcsize) {b : Word} (hb : b.toNat ≤ 8 * win.length) :
    CursorRanges p m win b srcpos furthest srcsize :=
  { h with bitposLe := hb }

theorem toNat_ofNat_le {n k : Nat} (h : n ≤ k) : (BitVec.ofNat 32 n).toNat ≤ k := by
  rw [BitVec.toNat_ofNat]
  exact (Nat.mod_le _ _).trans h

/-- A position not beyond a 32-bit size is kept as it is. -/
theorem toNat_ofNat_of_le {n : Nat} {size : Word} (h : n ≤ size.toNat) : (BitVec.ofNat 32 n).toNat = n := by
  rw [BitVec.toNat_ofNat, Nat.mod_eq_of_lt (h.trans_lt size.isLt)]

/-- FILL drops no more than the window holds. -/
theorem State.CursorInv.fillDrop_le {s : State} (h : s.CursorInv) : s.fillDrop ≤ s.win.length := by
  have := s.fillDrop_le
  have := h.bitposLe
  omega

/-- The window after a FILL of `n` bytes is the copy of the source that ends `n` bytes further on (R123). -/
theorem State.CursorInv.refill_winBytes {s : State} (h : s.CursorInv) (n : Nat) :
    s.win.drop s.fillDrop ++ s.src.readBytes s.srcpos.toNat n =
      s.src.readBytes (s.srcpos.toNat + n - (s.win.length - s.fillDrop + n)) (s.win.length - s.fillDrop + n) := by
  have hd := h.fillDrop_le
  have hb := h.winBehind
  have hdrop := congrArg (List.drop s.fillDrop) h.winBytes
  rw [Memory.readBytes_drop] at hdrop
  have hstart : s.srcpos.toNat + n - (s.win.length - s.fillDrop + n) =
      s.srcpos.toNat - s.win.length + s.fillDrop := by omega
  have hend : s.srcpos.toNat - s.win.length + s.fillDrop + (s.win.length - s.fillDrop) = s.srcpos.toNat := by omega
  rw [hstart, Memory.readBytes_add, hend, hdrop]

/-- FILL keeps the cursor's ranges (R40, R123). -/
theorem State.CursorInv.refill {s : State} (h : s.CursorInv) :
    (s.refill (s.src.readBytes s.srcpos.toNat s.fillCount) s.fillCount).CursorInv := by
  have hd := h.fillDrop_le
  obtain ⟨hbuf, hsize⟩ := s.fillCount_le
  have hlen : (s.win.drop s.fillDrop ++ s.src.readBytes s.srcpos.toNat s.fillCount).length =
      s.win.length - s.fillDrop + s.fillCount := by
    rw [List.length_append, List.length_drop, Memory.readBytes_length]
  have hle : s.srcpos.toNat + s.fillCount ≤ s.srcsize.toNat := by have := h.srcposLe; omega
  have hpos := toNat_ofNat_of_le hle
  have hfar := toNat_ofNat_of_le (max_le h.furthestLe hle)
  constructor <;> simp only [State.refill_cfg, State.refill_src, State.refill_win, State.refill_bitpos,
    State.refill_srcpos, State.refill_furthest, State.refill_srcsize, hlen, hpos, hfar]
  case bitposLe => exact toNat_ofNat_le (by have := h.bitposLe; omega)
  case winWords =>
    have hkept : s.cfg.streamWordBytes ∣ s.win.length - s.fillDrop :=
      Nat.dvd_sub (Nat.dvd_of_mod_eq_zero h.winWords) (Nat.dvd_mul_right _ _)
    exact Nat.mod_eq_zero_of_dvd (hkept.add (Nat.dvd_of_mod_eq_zero s.fillCount_mod))
  case winCap => have := h.winCap; omega
  case srcposLe => exact hle
  case furthestGe => exact le_max_right _ _
  case furthestLe => exact max_le h.furthestLe hle
  case winBehind => have := h.winBehind; omega
  case winBytes => exact h.refill_winBytes _

/-- FILLR and SEEK with operands in range keep the cursor's ranges (R40, R124). -/
theorem State.CursorInv.newWindow {s : State} (h : s.CursorInv) {pos bi : Nat} (hp : pos ≤ s.srcsize.toNat)
    (hb : bi < 8 * s.windowCount pos) :
    (s.newWindow pos (s.windowCount pos) bi (s.src.readBytes pos (s.windowCount pos))).CursorInv := by
  obtain ⟨hbuf, hsize⟩ := s.windowCount_le pos
  have hlen := Memory.readBytes_length s.src (s.windowCount pos) pos
  have hle : pos + s.windowCount pos ≤ s.srcsize.toNat := by omega
  have hpos := toNat_ofNat_of_le hle
  have hfar := toNat_ofNat_of_le (max_le h.furthestLe hle)
  constructor <;> simp only [State.newWindow_cfg, State.newWindow_src, State.newWindow_win, State.newWindow_bitpos,
    State.newWindow_srcpos, State.newWindow_furthest, State.newWindow_srcsize, hlen, hpos, hfar]
  case bitposLe => exact toNat_ofNat_le hb.le
  case winWords => exact s.windowCount_mod pos
  case winCap => exact hbuf
  case srcposLe => exact hle
  case furthestGe => exact le_max_right _ _
  case furthestLe => exact max_le h.furthestLe hle
  case winBehind => exact Nat.le_add_left _ _
  case winBytes => rw [Nat.add_sub_cancel]

/-- DEC consumes no more bits than the window holds, ALIGN ends at the end of a byte of it, OPEN empties it, and FILL,
FILLR and SEEK refill it; no other command that completes touches the cursor. -/
theorem Done.cursorInv {i : Instr} {s u : State} {v : Word} (h : Done i s u v) (hs : s.CursorInv) : u.CursorInv := by
  cases h
  case csrw c _ _ _ => cases c <;> exact hs
  case openSession => exact CursorRanges.empty _ _ _
  case decBits rd n _ _ _ _ hn =>
    refine CursorRanges.moveTo hs ?_
    have := hs.bitposLe
    unfold State.avail State.bitsHeld at hn
    calc (s.bitpos + BitVec.ofNat 32 n).toNat ≤ s.bitpos.toNat + (BitVec.ofNat 32 n).toNat := by
          rw [BitVec.toNat_add]; exact Nat.mod_le _ _
      _ ≤ s.bitpos.toNat + n := Nat.add_le_add_left (toNat_ofNat_le le_rfl) _
      _ ≤ 8 * s.win.length := by omega
  case decRice hr _ => exact CursorRanges.moveTo hs (toNat_ofNat_le (State.riceCode_le hr).2)
  case align => exact CursorRanges.moveTo hs (toNat_ofNat_le (by have := hs.bitposLe; omega))
  case fillNone hn => have := hs.refill; rwa [hn] at this
  case fill => exact hs.refill
  case fillr hp hb _ _ => exact hs.newWindow hp hb
  case seek hp hb _ _ => exact hs.newWindow hp hb
  all_goals exact hs

/-! ### The session -/

theorem headerOk_congr {s u : State} (h : ConfigKept s u) (hcfg : u.cfg = s.cfg) : u.headerOk = s.headerOk := by
  simp [State.headerOk, hcfg, h.version, h.channels, h.bitsps]

theorem filtersOk_congr {s u : State} (h : ConfigKept s u) (hcfg : u.cfg = s.cfg) : u.filtersOk = s.filtersOk := by
  simp only [State.filtersOk, hcfg, fun f => (h.filters f).configOk s.cfg]

/-- What keeps the configuration and the size of the source keeps a legal session. -/
theorem State.SessionInv.of_configKept {s u : State} (hs : s.SessionInv) (h : ConfigKept s u) (hcfg : u.cfg = s.cfg)
    (hlen : u.srcLen = s.srcLen) (hsize : u.srcsize = s.srcsize) : u.SessionInv where
  size := by rw [hsize, hlen, hs.size]
  header := by rw [headerOk_congr h hcfg, hs.header]
  filters := by rw [filtersOk_congr h hcfg, hs.filters]
  sized f := (h.filters f).sized (hs.sized f)

@[simp] theorem filter_beginSession (s : State) (f : Fin 8) : s.beginSession.filter f = (s.filter f).flush :=
  filter_flushAll s f

/-- OPEN's checks are what an open session is to have, and its flush gives every filter its taps (R216, R161). -/
theorem sessionInv_beginSession {s : State} (hh : s.headerOk = true) (hl : s.srcLen < 2 ^ 32)
    (hf : s.filtersOk = true) : s.beginSession.SessionInv where
  size := by
    change (BitVec.ofNat 32 s.srcLen).toNat = s.srcLen
    rw [BitVec.toNat_ofNat, Nat.mod_eq_of_lt hl]
  header := hh
  filters := by
    simp only [State.filtersOk, filter_beginSession, Filter.flush_configOk]
    exact hf
  sized f := by
    rw [filter_beginSession]
    exact Filter.flush_sized _

/-- A session that is open after a completed command was open before, with the same size, or OPEN began it. -/
theorem Done.isOpen_cases {i : Instr} {s u : State} {v : Word} (h : Done i s u v) (ho : u.isOpen = true) :
    (s.isOpen = true ∧ u.srcsize = s.srcsize) ∨
    (u = s.beginSession ∧ s.headerOk = true ∧ s.srcLen < 2 ^ 32 ∧ s.filtersOk = true) := by
  cases h
  case csrw c _ _ _ => cases c <;> exact .inl ⟨ho, rfl⟩
  case openSession hh hl hf => exact .inr ⟨rfl, hh, hl, hf⟩
  case closeSession => cases ho
  all_goals exact .inl ⟨ho, rfl⟩

theorem Done.sessionInv {i : Instr} {s u : State} {v : Word} (h : Done i s u v)
    (hs : s.isOpen = true → s.SessionInv) (ho : u.isOpen = true) : u.SessionInv := by
  obtain ⟨hcfg, -, -, hlen, -⟩ := h.outside
  obtain ⟨hso, hsize⟩ | ⟨rfl, hh, hl, hf⟩ := h.isOpen_cases ho
  · exact (hs hso).of_configKept (h.configKept hso) hcfg hlen hsize
  · exact sessionInv_beginSession hh hl hf

/-- The commands that validate the cursor have found the session open, and OPEN and CLOSE clear BVALID (R251). -/
theorem Done.validOpen {i : Instr} {s u : State} {v : Word} (h : Done i s u v)
    (hs : s.bvalid = true → s.isOpen = true) (hv : u.bvalid = true) : u.isOpen = true := by
  cases h
  case csrw c _ _ _ => cases c <;> exact hs hv
  case openSession => rfl
  case closeSession => cases hv
  case fillr ho _ _ _ _ => exact ho
  case seek ho _ _ _ _ => exact ho
  all_goals exact hs hv

/-- In an open session every step keeps the averages' range; while closed only OPEN touches an average, and sets it
to 0 (R41, R46). -/
theorem Done.avgBound {i : Instr} {s u : State} {v : Word} (h : Done i s u v)
    (hs : ∀ f, (s.filter f).avg.toNat < 2 ^ 31) (f : Fin 8) : (u.filter f).avg.toNat < 2 ^ 31 := by
  cases ho : s.isOpen with
  | true => exact (h.filters_kept ho f).avg (hs f)
  | false =>
    cases h
    case csrw ra c _ _ _ =>
      obtain ⟨-, -, -, havg, -⟩ := csrSet_filter_frame s c (s.reg ra) f
      rw [havg]
      exact hs f
    case openSession =>
      rw [filter_beginSession]
      exact (Filter.flush_kept _).avg (hs f)
    case seek | nnd | nnc | fod | foc | casd | casc | flushf | flusha =>
      have : s.isOpen = true := by assumption
      simp [ho] at this
    all_goals exact hs f

/-! ### Every command, and every step -/

theorem Done.inv {i : Instr} {s u : State} {v : Word} (h : Done i s u v) (hs : s.Inv) : u.Inv := by
  obtain ⟨hcfg, -, hsrc, hlen, -, -, herr, -⟩ := h.outside
  exact hs.next hcfg hsrc hlen (h.cursorInv hs.cursor) (h.sessionInv hs.session) (h.validOpen hs.validOpen)
    (h.avgBound hs.avgBound) (herr ▸ hs.lasterrCode)

/-- Before its record an error leaves the cursor, the size and the last error, and BVALID is at most cleared (R231). -/
theorem Failed.kept {i : Instr} {s u : State} {e : Err} (h : Failed i s u e) (hs : s.CursorInv) :
    u.CursorInv ∧ u.srcsize = s.srcsize ∧ u.lasterr = s.lasterr ∧ (u.bvalid = true → s.bvalid = true) := by
  cases h
  case hard | crce => exact ⟨hs, rfl, rfl, id⟩
  all_goals exact ⟨hs, rfl, rfl, nofun⟩

theorem Failed.inv {i : Instr} {s u : State} {e : Err} (h : Failed i s u e) (hs : s.Inv) : u.Inv := by
  obtain ⟨hcfg, -, hsrc, hlen, -, -, -, hopen, -⟩ := h.outside
  obtain ⟨hcur, hsize, herr, hval⟩ := h.kept hs.cursor
  refine hs.next hcfg hsrc hlen hcur (fun ho => ?_) (fun hv => ?_) (fun f => ?_) (herr ▸ hs.lasterrCode)
  · exact (hs.session (hopen ▸ ho)).of_configKept h.configKept hcfg hlen hsize
  · rw [hopen]
    exact hs.validOpen (hval hv)
  · exact (h.configKept.filters f).avg (hs.avgBound f)

/-- Every answered command keeps the declared ranges. -/
theorem exec_inv {i : Instr} {s t : State} (hs : s.Inv) (h : exec i s = .next t) : t.Inv := by
  obtain ⟨u, v, hd, rfl⟩ | ⟨u, e, hf, rfl⟩ := exec_effect h
  · exact (hd.inv hs).complete v
  · exact (hf.inv hs).raise e _

/-- So does every command word, legal or not (R98). -/
theorem runCommand_inv {w : Word} {s t : State} (hs : s.Inv) (h : runCommand w s = .next t) : t.Inv := by
  unfold runCommand at h
  split at h
  · exact exec_inv hs h
  · cases h
    exact hs.raise _ _

/-- Settles O23, by the host's next move: none, a command word, a reset, a reset inside a command. -/
theorem invKeptByEveryStep : Obligations.InvKeptByEveryStep := by
  intro s t hs h
  cases hin : s.inbox with
  | nil =>
    rw [step_of_inbox_nil hin] at h
    cases h
    exact hs
  | cons e rest =>
    cases e with
    | command w =>
      rw [step_of_inbox_command hin] at h
      exact runCommand_inv (hs.withInbox rest) h
    | reset =>
      rw [step_of_inbox_reset hin] at h
      cases h
      exact (hs.withInbox rest).hwReset
    | resetDuring w k =>
      rw [step_of_inbox_resetDuring hin] at h
      obtain ⟨bs, rfl⟩ := resetCommand_next h
      exact ((hs.withInbox rest).append bs).hwReset

end Sys2Proof.Machine
end

section
/-! PROOFS. A word that spells a command is the command's encoding (R91 to R96), so what the command's error records in
LASTCMD is the word sent (R26, log 12). -/

namespace Sys2Proof

theorem ifZero_eq_command {b : Bool} {i j : Instr} : ifZero b i = .command j ↔ b = true ∧ i = j := by
  cases b <;> simp [ifZero]

/-- Cutting a sign-extended immediate to its field gives the field back (R95). -/
theorem sext16_emod_toNat {n : Nat} (h : n < 65536) : (sext16 n % 65536).toNat = n := by
  unfold sext16
  split <;> omega

theorem imm16Field_lt (w : Word) : imm16Field w < 65536 := Nat.mod_lt _ (by decide)

theorem ofNat_eq_of_eq_toNat {n : Nat} {w : Word} (h : n = w.toNat) : BitVec.ofNat 32 n = w := by
  rw [h, BitVec.ofNat_toNat, BitVec.setWidth_eq]

/-- The fields decode reads and the must-be-zero fields it checks are all of the word: put back in their places they
give its number. -/
theorem encode_of_decode {w : Word} {i : Instr} (h : decode w = .command i) : encode i = w := by
  have hw := w.isLt
  unfold decode at h
  split at h
  case h_9 hop =>
    split at h
    case h_4 => cases h
    all_goals
      next hmethod =>
      obtain ⟨hz, rfl⟩ := ifZero_eq_command.mp h
      apply ofNat_eq_of_eq_toNat
      simp [opcodeField, rdField, imm8Field, regField, field] at hop hmethod hz ⊢
      omega
  case h_30 => cases h
  case h_2 hop =>
    obtain ⟨hz, rfl⟩ := ifZero_eq_command.mp h
    rw [encode, sext16_emod_toNat (imm16Field_lt w)]
    apply ofNat_eq_of_eq_toNat
    simp [opcodeField, rdField, imm16Field, regField, field] at hop hz ⊢
    omega
  all_goals
    next hop =>
    obtain ⟨hz, rfl⟩ := ifZero_eq_command.mp h
    apply ofNat_eq_of_eq_toNat
    simp [opcodeField, rdField, raField, rbField, rcField, imm8Field, imm16Field, regField, field] at hop hz ⊢
    omega

end Sys2Proof
end

section
/-! PROOFS. What a command word's response tells of the error record (R26, R236) and of the data registers (R20). -/

namespace Sys2Proof.Machine

/-! ### A command word and its response -/

theorem runCommand_of_decode_illegal {w : Word} {why : Illegal} (h : decode w = .illegal why) (s : State) :
    runCommand w s = .next (s.raise .illegalCommand w) := by
  simp only [runCommand, h, execIllegal]

/-- An answered word spelt a command that completed or failed, or it spelt none (R98); the error recorded is the
word's. -/
theorem runCommand_next {w : Word} {s t : State} (h : runCommand w s = .next t) :
    (∃ i u v, decode w = .command i ∧ Done i s u v ∧ t = u.complete v) ∨
    (∃ i u e, decode w = .command i ∧ Failed i s u e ∧ t = u.raise e w) ∨
    (∃ why, decode w = .illegal why ∧ t = s.raise .illegalCommand w) := by
  cases hdec : decode w with
  | command i =>
    rw [runCommand_of_decode_command hdec] at h
    obtain ⟨u, v, hd, rfl⟩ | ⟨u, e, hf, rfl⟩ := exec_effect h
    · exact .inl ⟨i, u, v, rfl, hd, rfl⟩
    · exact .inr (.inl ⟨i, u, e, rfl, hf, by rw [encode_of_decode hdec]⟩)
  | illegal why =>
    rw [runCommand_of_decode_illegal hdec] at h
    cases h
    exact .inr (.inr ⟨why, rfl, rfl⟩)

theorem response_of_complete {s u : State} {v : Word} {r : Response} (hu : u.responses = s.responses)
    (hr : (u.complete v).responses = s.responses ++ [r]) : r = ⟨0#8, v⟩ := by
  simpa [hu, eq_comm] using hr

theorem response_of_raise {s u : State} {e : Err} {w : Word} {r : Response} (hu : u.responses = s.responses)
    (hr : (u.raise e w).responses = s.responses ++ [r]) : r = ⟨e.code, 0#32⟩ := by
  simpa [hu, eq_comm] using hr

/-! ### The error record -/

theorem errlogWord_congr {s u : State} (h : u.errlog = s.errlog) : u.errlogWord = s.errlogWord := by
  simp [State.errlogWord, h]

/-- A CSRW to ERRLOG clears the written ones of what is read there (R24, R215). -/
theorem errlogWord_clearErrlog (s : State) (v : Word) : (s.clearErrlog v).errlogWord = s.errlogWord &&& ~~~ v :=
  csrValue_csrSet_same s .errlog v

/-- What an error records, seen from the state before the command (R26, R236). -/
theorem raise_record {s u : State} (e : Err) (w : Word) (herrlog : u.errlog = s.errlog) (hseq : u.seq = s.seq) :
    (u.raise e w).errlogWord = s.errlogWord ||| (1#32 <<< e.code.toNat) ∧ (u.raise e w).lasterr = e.code ∧
    (u.raise e w).lastcmd = w ∧ (u.raise e w).lastseq = s.seq :=
  ⟨by rw [errlogWord_raise, errlogWord_congr herrlog], rfl, rfl, hseq⟩

/-- Settles O10, by what an answered word has done: it completed, failed, or spelt no command. -/
theorem errorRecordKept : Obligations.ErrorRecordKept := by
  intro s t w r h hr
  obtain ⟨i, u, v, hdec, hd, rfl⟩ | ⟨i, u, e, -, hf, rfl⟩ | ⟨why, -, rfl⟩ := runCommand_next h
  · obtain ⟨-, -, -, -, hresp, -, herr, hcmd, hseq⟩ := hd.outside
    obtain rfl := response_of_complete hresp hr
    refine ⟨fun hne => absurd rfl hne, fun _ => ⟨herr, hcmd, hseq, ?_⟩⟩
    obtain hlog | ⟨ra, rfl, rfl⟩ := hd.errlog
    · exact .inl hlog
    · exact .inr ⟨ra, hdec, errlogWord_clearErrlog s (s.reg ra)⟩
  · obtain ⟨-, -, -, -, hresp, hseq, -, -, hlog⟩ := hf.outside
    obtain rfl := response_of_raise hresp hr
    exact ⟨fun _ => raise_record e w hlog hseq, fun h0 => absurd h0 e.code_ne_zero⟩
  · obtain rfl := response_of_raise rfl hr
    exact ⟨fun _ => raise_record .illegalCommand w rfl rfl, fun h0 => absurd h0 Err.illegalCommand.code_ne_zero⟩

/-! ### The data registers -/

/-- A command that completes writes no register but its destinations (R20). -/
theorem Done.reg_of_notMem_dests {i : Instr} {s u : State} {v : Word} (h : Done i s u v) {r : Reg}
    (hr : r ∉ i.dests) : u.reg r = s.reg r := by
  cases h
  case csrw ra c _ _ _ =>
    obtain ⟨hd, -⟩ := csrSet_frame s c (s.reg ra)
    exact reg_congr hd r
  case decBits _ hi _ _ _ =>
    obtain rfl | rfl := hi <;> exact reg_setReg_of_ne _ _ (List.ne_of_not_mem_cons hr)
  case ms2lr rd rc _ _ _ =>
    have hrd : r ≠ rd := List.ne_of_not_mem_cons hr
    have hrc : r ≠ rc := List.ne_of_not_mem_cons (List.not_mem_of_not_mem_cons hr)
    exact (reg_setReg_of_ne _ _ hrc).trans (reg_setReg_of_ne _ _ hrd)
  case li | lih | mov | csrr | decRice | zz | nnd | nnc | fod | foc | casd | casc | sat16 | mono | crce =>
    exact reg_setReg_of_ne _ _ (List.ne_of_not_mem_cons hr)
  all_goals rfl

/-- Of the errors only CRCE's mismatch writes a register, its destination (R195). -/
theorem Failed.reg_of_notMem_dests {i : Instr} {s u : State} {e : Err} (h : Failed i s u e) {r : Reg}
    (hr : r ∉ i.dests) : u.reg r = s.reg r := by
  cases h
  case crce => exact reg_setReg_of_ne _ _ (List.ne_of_not_mem_cons hr)
  all_goals rfl

/-- A hard error writes no register (R20, R231). -/
theorem Failed.reg_of_hard {i : Instr} {s u : State} {e : Err} (h : Failed i s u e) (he : e ≠ .frameIntegrityError)
    (r : Reg) : u.reg r = s.reg r := by
  cases h
  case crce => exact absurd rfl he
  all_goals rfl

theorem exec_reg_of_notMem_dests {i : Instr} {s t : State} (h : exec i s = .next t) {r : Reg} (hr : r ∉ i.dests) :
    t.reg r = s.reg r := by
  obtain ⟨u, v, hd, rfl⟩ | ⟨u, e, hf, rfl⟩ := exec_effect h
  · exact hd.reg_of_notMem_dests hr
  · exact hf.reg_of_notMem_dests hr

/-- Settles O14: the frame of every command, and of its hard errors, those with a code that is not CRCE's 0x0C. -/
theorem registersChangeOnlyAsDestination : Obligations.RegistersChangeOnlyAsDestination := by
  intro i s t r h
  refine ⟨exec_reg_of_notMem_dests h, fun c hc hne hsoft => ?_⟩
  obtain ⟨hok, -⟩ | ⟨-, u, e, hf, rfl, hcode⟩ := (exec_effect h).of_response hc
  · exact absurd hok hne
  · have he : e ≠ .frameIntegrityError := by
      rintro rfl
      exact hsoft hcode
    exact hf.reg_of_hard he r

end Sys2Proof.Machine
end

section
/-! PROOFS. What a command takes from the byte source (R60, R61) and what it adds to the output stream and to the CRC
(R45, R66). -/

namespace Sys2Proof.Machine

/-! ### The byte source -/

/-- Between the two states the command `i` has done no `SrcRead`, or it is one of R60's readers and has done one, which
used up one answer (R61, log 5). -/
def ReadsAtMostOnce (i : Instr) (s u : State) : Prop :=
  u.reads = s.reads ∧ u.answers = s.answers ∨
  i.readsSource = true ∧ u.reads = s.reads + 1 ∧ u.answers = s.answers.tail

/-- A FILL without room, or at the end of the source, is the one reader that completes without a read (R123). -/
theorem Done.readsAtMostOnce {i : Instr} {s u : State} {v : Word} (h : Done i s u v) : ReadsAtMostOnce i s u := by
  cases h
  case csrw ra c _ _ _ =>
    obtain ⟨-, -, -, -, -, -, -, -, -, hanswers, hreads, -⟩ := csrSet_frame s c (s.reg ra)
    exact .inl ⟨hreads, hanswers⟩
  case fill | fillr | seek => exact .inr ⟨rfl, rfl, rfl⟩
  all_goals exact .inl ⟨rfl, rfl⟩

/-- The errors after a read are the IOErrors of the three readers (R233). -/
theorem Failed.readsAtMostOnce {i : Instr} {s u : State} {e : Err} (h : Failed i s u e) : ReadsAtMostOnce i s u := by
  cases h
  case fill | fillr | seek => exact .inr ⟨rfl, rfl, rfl⟩
  case hard | crce => exact .inl ⟨rfl, rfl⟩

theorem exec_readsAtMostOnce {i : Instr} {s t : State} (h : exec i s = .next t) : ReadsAtMostOnce i s t := by
  obtain ⟨u, v, hd, rfl⟩ | ⟨u, e, hf, rfl⟩ := exec_effect h
  · exact hd.readsAtMostOnce
  · exact hf.readsAtMostOnce

/-- No answered command touches the source, its size, the hardware's parameters or the host's coming moves (R7, R60,
R284). -/
theorem exec_environment {i : Instr} {s t : State} (h : exec i s = .next t) :
    t.src = s.src ∧ t.srcLen = s.srcLen ∧ t.cfg = s.cfg ∧ t.inbox = s.inbox := by
  obtain ⟨u, v, hd, rfl⟩ | ⟨u, e, hf, rfl⟩ := exec_effect h
  · obtain ⟨hcfg, hinbox, hsrc, hlen, -⟩ := hd.outside
    exact ⟨hsrc, hlen, hcfg, hinbox⟩
  · obtain ⟨hcfg, hinbox, hsrc, hlen, -⟩ := hf.outside
    exact ⟨hsrc, hlen, hcfg, hinbox⟩

/-- Settles O15: what is around the block is kept, and only the reads of FILL, FILLR and SEEK are counted. -/
theorem sourceReadOnly : Obligations.SourceReadOnly := by
  intro i s t h
  obtain ⟨hsrc, hlen, hcfg, hinbox⟩ := exec_environment h
  exact ⟨hsrc, fun a => by rw [hsrc], hlen, hcfg, hinbox, exec_readsAtMostOnce h⟩

/-! ### The output stream and the CRC accumulator -/

/-- The output stream of `u` is that of `s` with bytes appended, and with none unless `i` is EMIT or SIL (R66). -/
def AppendsOutput (i : Instr) (s u : State) : Prop :=
  ∃ bs, u.out = s.out ++ bs ∧ (bs ≠ [] → (∃ ra rb, i = .emit ra rb) ∨ i = .sil)

/-- The CRC accumulator is kept unless `i` is EMIT, CRCS or OPEN (R45). -/
def KeepsCrc (i : Instr) (s u : State) : Prop :=
  u.crcacc = s.crcacc ∨ (∃ ra rb, i = .emit ra rb) ∨ i = .crcs ∨ i = .openSession

theorem AppendsOutput.of_out_eq {i : Instr} {s u : State} (h : u.out = s.out) : AppendsOutput i s u :=
  ⟨[], by rw [h, List.append_nil], fun hne => absurd rfl hne⟩

/-- `crcacc` is read-only: no CSR write changes it (R25, R215). -/
theorem csrSet_crcacc (s : State) (c : Csr) (v : Word) : (s.csrSet c v).crcacc = s.crcacc := by
  cases c <;> rfl

theorem Done.appendsOutput {i : Instr} {s u : State} {v : Word} (h : Done i s u v) : AppendsOutput i s u := by
  cases h
  case emit ra rb _ => exact ⟨_, rfl, fun _ => .inl ⟨ra, rb, rfl⟩⟩
  case sil => exact ⟨_, rfl, fun _ => .inr rfl⟩
  case csrw ra c _ _ _ =>
    obtain ⟨-, -, -, hout, -⟩ := csrSet_frame s c (s.reg ra)
    exact .of_out_eq hout
  all_goals exact .of_out_eq rfl

/-- An error appends nothing (R231). -/
theorem Failed.appendsOutput {i : Instr} {s u : State} {e : Err} (h : Failed i s u e) : AppendsOutput i s u := by
  obtain ⟨-, -, -, -, -, -, hout, -⟩ := h.outside
  exact .of_out_eq hout

theorem Done.keepsCrc {i : Instr} {s u : State} {v : Word} (h : Done i s u v) : KeepsCrc i s u := by
  cases h
  case emit ra rb _ => exact .inr (.inl ⟨ra, rb, rfl⟩)
  case crcs => exact .inr (.inr (.inl rfl))
  case openSession => exact .inr (.inr (.inr rfl))
  case csrw ra c _ _ _ => exact .inl (csrSet_crcacc s c (s.reg ra))
  all_goals exact .inl rfl

/-- No error moves the accumulator, CRCE's mismatch neither (R195). -/
theorem Failed.keepsCrc {i : Instr} {s u : State} {e : Err} (h : Failed i s u e) : KeepsCrc i s u := by
  cases h <;> exact .inl rfl

theorem exec_appendsOutput_keepsCrc {i : Instr} {s t : State} (h : exec i s = .next t) :
    AppendsOutput i s t ∧ KeepsCrc i s t := by
  obtain ⟨u, v, hd, rfl⟩ | ⟨u, e, hf, rfl⟩ := exec_effect h
  · exact ⟨hd.appendsOutput, hd.keepsCrc⟩
  · exact ⟨hf.appendsOutput, hf.keepsCrc⟩

/-- Settles O16, by the cases of what a command can do: of those that complete only EMIT and SIL append, and only EMIT,
CRCS and OPEN set the accumulator. -/
theorem outputAppendOnly : Obligations.OutputAppendOnly := fun _ _ _ h => exec_appendsOutput_keepsCrc h

end Sys2Proof.Machine
end

section
/-! PROOFS. Decoder, encoder and opcode table agree (R91 to R96, R99). A word that has the fixed bits of a command's row
decodes to the command of that row whose operands are the word's fields (`decode_of_match`), and the fields of an
encoding are the command's operands (`readFrom_encode`). -/

namespace Sys2Proof

/-! ### Operands read from a word -/

/-- The command of `i`'s row whose operands are the fields of `w`, whatever the operands of `i` are (R91 to R95). -/
def Instr.readFrom (w : Word) : Instr → Instr
  | .nop => .nop
  | .li _ _ => .li (rdField w) (sext16 (imm16Field w))
  | .lih _ _ => .lih (rdField w) (imm16Field w)
  | .mov _ _ => .mov (rdField w) (raField w)
  | .csrr _ _ => .csrr (rdField w) (imm8Field w)
  | .csrw _ _ => .csrw (imm8Field w) (raField w)
  | .openSession => .openSession
  | .closeSession => .closeSession
  | .decUint _ _ => .decUint (rdField w) (imm8Field w)
  | .decRice _ _ => .decRice (rdField w) (imm8Field w)
  | .decXbits _ _ => .decXbits (rdField w) (imm8Field w)
  | .align => .align
  | .fill => .fill
  | .fillr _ _ => .fillr (raField w) (rbField w)
  | .seek _ _ => .seek (raField w) (rbField w)
  | .zz _ _ => .zz (rdField w) (raField w)
  | .nnd _ _ _ => .nnd (rdField w) (raField w) (imm8Field w)
  | .nnc _ _ _ => .nnc (rdField w) (raField w) (imm8Field w)
  | .fod _ _ _ => .fod (rdField w) (raField w) (imm8Field w)
  | .foc _ _ _ => .foc (rdField w) (raField w) (imm8Field w)
  | .casd _ _ _ => .casd (rdField w) (raField w) (imm8Field w)
  | .casc _ _ _ => .casc (rdField w) (raField w) (imm8Field w)
  | .flushf _ => .flushf (imm8Field w)
  | .flusha => .flusha
  | .sat16 _ _ => .sat16 (rdField w) (raField w)
  | .ms2lr _ _ _ _ => .ms2lr (rdField w) (rcField w) (raField w) (rbField w)
  | .mono _ _ => .mono (rdField w) (raField w)
  | .emit _ _ => .emit (raField w) (rbField w)
  | .sil => .sil
  | .crcs => .crcs
  | .crce _ => .crce (rdField w)

theorem row_readFrom (w : Word) (i : Instr) : (i.readFrom w).row = i.row := by
  cases i <;> rfl

theorem imm16_encodeI {op : Nat} (h : op < 256) (rd : Reg) (n : Nat) : imm16Field (encodeI op rd n) = n % 65536 := by
  unfold imm16Field
  rw [field_encodeI h]
  omega

theorem imm8_encodeD {m : Nat} (h : m < 4) (rd : Reg) (n : Nat) : imm8Field (encodeD rd m n) = n % 256 := by
  unfold imm8Field
  rw [field_encodeD h]
  omega

/-- No operand of a well-formed command is lost in its encoding (R91 to R93, R95). -/
theorem readFrom_encode {i : Instr} (h : i.wellFormed = true) : i.readFrom (encode i) = i := by
  cases i
  case nop | openSession | closeSession | align | fill | flusha | sil | crcs => rfl
  case li rd imm =>
    obtain ⟨hlo, hhi⟩ : -32768 ≤ imm ∧ imm ≤ 32767 := of_decide_eq_true h
    have hcut : (imm % 65536).toNat < 65536 := by omega
    simp [Instr.readFrom, encode, rd_encodeI, imm16_encodeI, Nat.mod_eq_of_lt hcut, sext16_emod hlo hhi]
  case lih rd imm =>
    have hn : imm < 65536 := of_decide_eq_true h
    simp [Instr.readFrom, encode, rd_encodeI, imm16_encodeI, Nat.mod_eq_of_lt hn]
  case decUint rd n | decRice rd n | decXbits rd n =>
    have hn : n < 256 := of_decide_eq_true h
    simp [Instr.readFrom, encode, rd_encodeD, imm8_encodeD, Nat.mod_eq_of_lt hn]
  case csrr _ n | csrw n _ | nnd _ _ n | nnc _ _ n | fod _ _ n | foc _ _ n | casd _ _ n | casc _ _ n | flushf n =>
    have hn : n < 256 := of_decide_eq_true h
    simp [Instr.readFrom, encode, rd_encodeR, ra_encodeR, imm8_encodeR, Nat.mod_eq_of_lt hn]
  all_goals simp [Instr.readFrom, encode, rd_encodeR, ra_encodeR, rb_encodeR, rc_encodeR]

theorem imm8Field_lt (w : Word) : imm8Field w < 256 := Nat.mod_lt _ (by decide)

theorem sext16_bounds {n : Nat} (h : n < 65536) : -32768 ≤ sext16 n ∧ sext16 n ≤ 32767 := by
  unfold sext16
  split <;> omega

/-- Numbers that are read from fields fit their fields. -/
theorem wellFormed_readFrom (w : Word) (i : Instr) : (i.readFrom w).wellFormed = true := by
  cases i
  case li => exact decide_eq_true (sext16_bounds (imm16Field_lt w))
  case lih => exact decide_eq_true (imm16Field_lt w)
  case csrr | csrw | decUint | decRice | decXbits | nnd | nnc | fod | foc | casd | casc | flushf =>
    exact decide_eq_true (imm8Field_lt w)
  all_goals rfl

/-! ### The rows of the opcode table -/

/-- The word of a command has the fixed bits of the command's row (R94). -/
theorem encode_match : ∀ i : Instr, encode i &&& i.row.mask = i.row.bits
  | .nop => Laws.RowMatch.nop
  | .li rd imm => Laws.RowMatch.li rd imm
  | .lih rd imm => Laws.RowMatch.lih rd imm
  | .mov rd ra => Laws.RowMatch.mov rd ra
  | .csrr rd csr => Laws.RowMatch.csrr rd csr
  | .csrw csr ra => Laws.RowMatch.csrw csr ra
  | .openSession => Laws.RowMatch.openSession
  | .closeSession => Laws.RowMatch.closeSession
  | .decUint rd n => Laws.RowMatch.decUint rd n
  | .decRice rd slot => Laws.RowMatch.decRice rd slot
  | .decXbits rd n => Laws.RowMatch.decXbits rd n
  | .align => Laws.RowMatch.align
  | .fill => Laws.RowMatch.fill
  | .fillr ra rb => Laws.RowMatch.fillr ra rb
  | .seek ra rb => Laws.RowMatch.seek ra rb
  | .zz rd ra => Laws.RowMatch.zz rd ra
  | .nnd rd ra f => Laws.RowMatch.nnd rd ra f
  | .nnc rd ra f => Laws.RowMatch.nnc rd ra f
  | .fod rd ra f => Laws.RowMatch.fod rd ra f
  | .foc rd ra f => Laws.RowMatch.foc rd ra f
  | .casd rd ra ch => Laws.RowMatch.casd rd ra ch
  | .casc rd ra ch => Laws.RowMatch.casc rd ra ch
  | .flushf f => Laws.RowMatch.flushf f
  | .flusha => Laws.RowMatch.flusha
  | .sat16 rd ra => Laws.RowMatch.sat16 rd ra
  | .ms2lr rd rc ra rb => Laws.RowMatch.ms2lr rd rc ra rb
  | .mono rd ra => Laws.RowMatch.mono rd ra
  | .emit ra rb => Laws.RowMatch.emit ra rb
  | .sil => Laws.RowMatch.sil
  | .crcs => Laws.RowMatch.crcs
  | .crce rd => Laws.RowMatch.crce rd

theorem row_mem_opcodeTable (i : Instr) : i.row ∈ opcodeTable := by
  cases i <;> simp [opcodeTable, Instr.row]

/-- Every row of the table is a command's. -/
theorem exists_row_eq : ∀ r ∈ opcodeTable, ∃ i : Instr, i.row = r := by
  simp [opcodeTable]

/-- Every row fixes the opcode. -/
theorem mask_opcode : ∀ r ∈ opcodeTable, ∀ k : Fin 32, 24 ≤ k.val → k.val < 32 → r.mask.getLsbD k.val = true := by
  decide

theorem opcodeField_of_match {w : Word} {i : Instr} (h : w &&& i.row.mask = i.row.bits) :
    opcodeField w = i.opcode := by
  have hbits : field i.row.bits 24 8 = i.opcode := by cases i <;> simp [field, Instr.row, Instr.opcode]
  exact (field_eq_of_mask h (mask_opcode _ (row_mem_opcodeTable i)) (by decide)).trans hbits

/-! ### Decoding -/

/-- A word with the fixed bits of a row decodes to the row's command: its opcode selects the arm, and the must-be-zero
fields the arm checks lie inside the row's mask (R94). -/
theorem decode_of_match {w : Word} {i : Instr} (h : w &&& i.row.mask = i.row.bits) :
    decode w = .command (i.readFrom w) := by
  have hop := opcodeField_of_match h
  cases i <;> dsimp only [Instr.row, Instr.opcode] at h hop
  case nop | openSession | closeSession | align | fill | flusha | sil | crcs =>
    have hz : field w 0 24 = 0 := field_eq_of_mask h (by decide) (by decide)
    simp [decode, hop, hz, ifZero, Instr.readFrom]
  case li | lih =>
    have hz : field w 16 4 = 0 := field_eq_of_mask h (by decide) (by decide)
    simp [decode, hop, hz, ifZero, Instr.readFrom]
  case mov | zz | sat16 | mono =>
    have hz : field w 0 16 = 0 := field_eq_of_mask h (by decide) (by decide)
    simp [decode, hop, hz, ifZero, Instr.readFrom]
  case csrr =>
    have hz : field w 8 12 = 0 := field_eq_of_mask h (by decide) (by decide)
    simp [decode, hop, hz, ifZero, Instr.readFrom]
  case csrw =>
    have hz : field w 20 4 = 0 := field_eq_of_mask h (by decide) (by decide)
    have hz' : field w 8 8 = 0 := field_eq_of_mask h (by decide) (by decide)
    simp [decode, hop, hz, hz', ifZero, Instr.readFrom]
  case decUint =>
    have hm : field w 18 2 = 0 := field_eq_of_mask h (by decide) (by decide)
    have hz : field w 8 10 = 0 := field_eq_of_mask h (by decide) (by decide)
    simp [decode, hop, hm, hz, ifZero, Instr.readFrom]
  case decRice =>
    have hm : field w 18 2 = 1 := field_eq_of_mask h (by decide) (by decide)
    have hz : field w 8 10 = 0 := field_eq_of_mask h (by decide) (by decide)
    simp [decode, hop, hm, hz, ifZero, Instr.readFrom]
  case decXbits =>
    have hm : field w 18 2 = 2 := field_eq_of_mask h (by decide) (by decide)
    have hz : field w 8 10 = 0 := field_eq_of_mask h (by decide) (by decide)
    simp [decode, hop, hm, hz, ifZero, Instr.readFrom]
  case fillr | seek | emit =>
    have hz : field w 20 4 = 0 := field_eq_of_mask h (by decide) (by decide)
    have hz' : field w 0 12 = 0 := field_eq_of_mask h (by decide) (by decide)
    simp [decode, hop, hz, hz', ifZero, Instr.readFrom]
  case nnd | nnc | fod | foc | casd | casc =>
    have hz : field w 8 8 = 0 := field_eq_of_mask h (by decide) (by decide)
    simp [decode, hop, hz, ifZero, Instr.readFrom]
  case flushf =>
    have hz : field w 8 16 = 0 := field_eq_of_mask h (by decide) (by decide)
    simp [decode, hop, hz, ifZero, Instr.readFrom]
  case ms2lr =>
    have hz : field w 0 8 = 0 := field_eq_of_mask h (by decide) (by decide)
    simp [decode, hop, hz, ifZero, Instr.readFrom]
  case crce =>
    have hz : field w 0 20 = 0 := field_eq_of_mask h (by decide) (by decide)
    simp [decode, hop, hz, ifZero, Instr.readFrom]

/-- A word that decodes to a command has the fixed bits of the command's row (R94). -/
theorem match_of_decode {w : Word} {i : Instr} (h : decode w = .command i) : w &&& i.row.mask = i.row.bits := by
  have := encode_match i
  rwa [encode_of_decode h] at this

/-- Its operands are the word's fields. -/
theorem readFrom_of_decode {w : Word} {i : Instr} (h : decode w = .command i) : i.readFrom w = i := by
  rw [decode_of_match (match_of_decode h)] at h
  exact Decoded.command.inj h

/-- Settles O1: the encoding has the fixed bits of the command's row, and its fields are the command's operands. -/
theorem decodeOfEncode : Obligations.DecodeOfEncode := by
  intro i hi
  rw [decode_of_match (encode_match i), readFrom_encode hi]

/-- Settles O2: the fields read and the must-be-zero fields are all of the word (`encode_of_decode`), and what is read
from a field fits it. -/
theorem encodeOfDecode : Obligations.EncodeOfDecode := by
  intro w i h
  refine ⟨encode_of_decode h, ?_⟩
  rw [← readFrom_of_decode h]
  exact wellFormed_readFrom w i

/-- Settles O3: two rows that a word matches are both the row of the one command it decodes to. -/
theorem decodeFollowsOpcodeTable : Obligations.DecodeFollowsOpcodeTable := by
  constructor
  · intro w r hr
    constructor
    · rintro ⟨i, hdec, rfl⟩
      exact match_of_decode hdec
    · intro h
      obtain ⟨i, rfl⟩ := exists_row_eq r hr
      exact ⟨i.readFrom w, decode_of_match h, row_readFrom w i⟩
  · intro w r hr r' hr' h h'
    obtain ⟨i, rfl⟩ := exists_row_eq r hr
    obtain ⟨j, rfl⟩ := exists_row_eq r' hr'
    have heq : i.readFrom w = j.readFrom w :=
      Decoded.command.inj ((decode_of_match h).symm.trans (decode_of_match h'))
    rw [← row_readFrom w i, heq, row_readFrom]

/-- Settles O4: fourteen fixed words, which the decoder evaluates (R102). -/
theorem workedEncodings : Obligations.WorkedEncodings := by
  unfold Obligations.WorkedEncodings
  decide

end Sys2Proof
end

section
/-! PROOFS. Illegal words (R98): what no word that decodes can have, and the answer to a word that does not. -/

namespace Sys2Proof

/-! ### What a word that decodes has -/

/-- The opcodes of the commands leave R98's gaps. -/
theorem opcode_assigned (i : Instr) :
    i.opcode ≤ 0x07 ∨ (0x10 ≤ i.opcode ∧ i.opcode ≤ 0x15) ∨ (0x20 ≤ i.opcode ∧ i.opcode ≤ 0x28) ∨
      (0x30 ≤ i.opcode ∧ i.opcode ≤ 0x33) ∨ (0x38 ≤ i.opcode ∧ i.opcode ≤ 0x39) := by
  cases i <;> simp [Instr.opcode]

theorem isCompress_of_opcode {i : Instr} (h : i.opcode = 0x21 ∨ i.opcode = 0x23 ∨ i.opcode = 0x25) :
    i.isCompress = true := by
  cases i
  case nnc | foc | casc => rfl
  all_goals simp [Instr.opcode] at h

/-- The rows of DEC fix bits [17:8] to 0 and have no method 3 (R93, R94). -/
theorem dec_fields_of_match {w : Word} {i : Instr} (hi : i.opcode = 0x10) (h : w &&& i.row.mask = i.row.bits) :
    field w 8 8 = 0 ∧ field w 16 2 = 0 ∧ field w 18 2 ≠ 3 := by
  cases i
  case decUint | decRice | decXbits =>
    dsimp only [Instr.row] at h
    have hlow := field_eq_of_mask h (lo := 8) (len := 8) (by decide) (by decide)
    have hhigh := field_eq_of_mask h (lo := 16) (len := 2) (by decide) (by decide)
    have hmethod := field_eq_of_mask h (lo := 18) (len := 2) (by decide) (by decide)
    exact ⟨hlow, hhigh, hmethod.trans_ne (by decide)⟩
  all_goals simp [Instr.opcode] at hi

end Sys2Proof

namespace Sys2Proof.Machine

/-! ### The answer to an illegal word -/

/-- Where the compress commands do not exist, each is refused before its other checks (R98, R140; log 11). -/
theorem exec_of_no_compress {i : Instr} {s : State} (hi : i.isCompress = true) (hs : s.cfg.hasCompress = false) :
    exec i s = .next (s.raise .illegalCommand (encode i)) := by
  cases i
  case nnc | foc | casc => exact checked_fail _ (by simp [State.compressChecks, hs])
  all_goals cases hi

/-- A word that spells no command, or a compress command on a hardware without them, is IllegalCommand (R98). -/
theorem runCommand_illegal {w : Word} {s : State}
    (h : ∀ i, decode w = .command i → i.isCompress = true ∧ s.cfg.hasCompress = false) :
    runCommand w s = .next (s.raise .illegalCommand w) := by
  cases hdec : decode w with
  | illegal why => exact runCommand_of_decode_illegal hdec s
  | command i =>
    obtain ⟨hi, hs⟩ := h i hdec
    rw [runCommand_of_decode_command hdec, exec_of_no_compress hi hs, encode_of_decode hdec]

/-- Settles O5: a word that decodes has an assigned opcode, zeros where its row asks for them and no method 3, so of
R98's cases only a compress opcode without HAS_COMPRESS is left to it. -/
theorem illegalWordsRefused : Obligations.IllegalWordsRefused := by
  intro s w rest hin hill
  have honly : ∀ i, decode w = .command i → i.isCompress = true ∧ s.cfg.hasCompress = false := by
    intro i hdec
    have hmatch := match_of_decode hdec
    have hop : field w 24 8 = i.opcode := opcodeField_of_match hmatch
    have hassigned := opcode_assigned i
    dsimp only at hill
    rw [hop] at hill
    obtain hgap | hgap | hgap | hgap | hgap | ⟨hs, hcompress⟩ | ⟨hdec10, hbad⟩ | hrow := hill
    · omega
    · omega
    · omega
    · omega
    · omega
    · exact ⟨isCompress_of_opcode hcompress, hs⟩
    · obtain ⟨hlow, hhigh, hmethod⟩ := dec_fields_of_match hdec10 hmatch
      simp [hlow, hhigh, hmethod] at hbad
    · exact absurd hmatch (hrow _ (row_mem_opcodeTable i))
  calc step s = runCommand w { s with inbox := rest } := step_of_inbox_command hin
    _ = .next (State.raise { s with inbox := rest } .illegalCommand w) := runCommand_illegal honly
    _ = .next (Spec.errAfter { s with inbox := rest } 0x01#8 w) := by rw [raise_eq_errAfter]; rfl

end Sys2Proof.Machine
end

section
/-! PROOFS. The words of formats R and D as the encoder's numbers (R91, R93), and the residual map of ZZ (R126). -/

namespace Sys2Proof

/-! ### Words as sums of their fields -/

theorem toNat_append_eq_add {m n : Nat} (x : BitVec m) (y : BitVec n) :
    (x ++ y).toNat = x.toNat * 2 ^ n + y.toNat := by
  rw [BitVec.toNat_append, ← Nat.shiftLeft_add_eq_or_of_lt y.isLt, Nat.shiftLeft_eq]

theorem wordR_eq_encodeR (op : Byte) (rd ra rb rc : Reg) (imm8 : Byte) :
    Spec.wordR op rd ra rb rc imm8 = encodeR op.toNat rd ra rb rc imm8.toNat := by
  have hsum := encodeR_lt op.isLt rd ra rb rc imm8.toNat
  apply BitVec.eq_of_toNat_eq
  simp only [Spec.wordR, encodeR, toNat_append_eq_add, BitVec.toNat_ofNat, Nat.mod_eq_of_lt hsum]
  omega

theorem wordD_eq_encodeD (rd : Reg) (method : BitVec 2) (param1 : Byte) :
    Spec.wordD rd method param1 = encodeD rd method.toNat param1.toNat := by
  have hsum := encodeD_lt method.isLt rd param1.toNat
  apply BitVec.eq_of_toNat_eq
  simp only [Spec.wordD, encodeD, toNat_append_eq_add, BitVec.toNat_ofNat, Nat.mod_eq_of_lt hsum]
  omega

/-- The words of DEC UINT and DEC XBITS with the width `x` (R93, R112, R113). -/
theorem decode_wordD_fixedWidth (rd : Reg) (x : Byte) :
    decode (Spec.wordD rd 0#2 x) = .command (.decUint rd x.toNat) ∧
      decode (Spec.wordD rd 2#2 x) = .command (.decXbits rd x.toNat) := by
  have hfits : fits8 x.toNat = true := decide_eq_true x.isLt
  rw [wordD_eq_encodeD, wordD_eq_encodeD]
  exact ⟨decodeOfEncode (.decUint rd x.toNat) hfits, decodeOfEncode (.decXbits rd x.toNat) hfits⟩

theorem decode_wordR_zz (rd ra : Reg) : decode (Spec.wordR 0x15#8 rd ra 0 0 0#8) = .command (.zz rd ra) := by
  rw [wordR_eq_encodeR]
  exact decodeOfEncode (.zz rd ra) rfl

end Sys2Proof

namespace Sys2Proof.Machine

/-! ### ZZ -/

theorem zigzag_of_odd {v : Word} {m : Nat} (h : v.toNat = 2 * m + 1) : zigzag v = BitVec.ofNat 32 (m + 1) := by
  have hm : (v.toNat : Int) / 2 + 1 = ((m + 1 : Nat) : Int) := by omega
  rw [zigzag, if_pos (by omega), hm, wrap32, BitVec.ofInt_natCast]

theorem zigzag_of_even {v : Word} {m : Nat} (h : v.toNat = 2 * m) : zigzag v = -BitVec.ofNat 32 m := by
  have hm : (v.toNat : Int) / 2 = (m : Int) := by omega
  rw [zigzag, if_neg (by omega), hm, wrap32, BitVec.ofInt_neg, BitVec.ofInt_natCast]

/-- Odd codes give the patterns 1 to 2^31, even ones 0 and the patterns above 2^31. -/
theorem zigzag_toNat (v : Word) :
    (zigzag v).toNat = if v.toNat % 2 = 1 then v.toNat / 2 + 1 else (2 ^ 32 - v.toNat / 2) % 2 ^ 32 := by
  have hv := v.isLt
  split
  · rw [zigzag_of_odd (m := v.toNat / 2) (by omega), BitVec.toNat_ofNat]
    omega
  · rw [zigzag_of_even (m := v.toNat / 2) (by omega), BitVec.toNat_neg, BitVec.toNat_ofNat]
    omega

theorem zigzag_injective : Function.Injective zigzag := by
  intro a b h
  have ha := a.isLt
  have hb := b.isLt
  have hnat := congrArg BitVec.toNat h
  rw [zigzag_toNat, zigzag_toNat] at hnat
  apply BitVec.eq_of_toNat_eq
  split at hnat <;> split at hnat <;> omega

theorem zigzag_surjective : Function.Surjective zigzag :=
  Finite.surjective_of_injective zigzag_injective

theorem exec_zz (rd ra : Reg) (s : State) : exec (.zz rd ra) s = .next (Spec.okReg s rd (zigzag (s.reg ra))) := rfl

/-- What ZZ leaves in its destination, given the code in its source. -/
theorem exec_zz_setReg (rd ra : Reg) (s : State) (a : Word) :
    ∃ t, exec (.zz rd ra) (s.setReg ra a) = .next t ∧ t.reg rd = zigzag a :=
  ⟨_, rfl, by rw [reg_completeReg_same, reg_setReg_same]⟩

theorem exec_zz_reg {rd ra : Reg} {s t : State} {a : Word} (h : exec (.zz rd ra) (s.setReg ra a) = .next t) :
    t.reg rd = zigzag a := by
  obtain ⟨u, hu, hreg⟩ := exec_zz_setReg rd ra s a
  cases hu.symm.trans h
  exact hreg

/-- Settles O26: two codes with one residual are equal, as the residual's pattern tells the parity of the code and its
half (`zigzag_toNat`); on the finite set of patterns the map is then onto. -/
theorem zigzagBijection : Obligations.ZigzagBijection := by
  intro s rd ra
  refine ⟨decode_wordR_zz rd ra, ⟨_, exec_zz rd ra s, fun m => zigzag_of_odd, fun m => zigzag_of_even⟩, ?_, ?_⟩
  · intro a b t u ht hu heq
    rw [exec_zz_reg ht, exec_zz_reg hu] at heq
    exact zigzag_injective heq
  · intro v
    obtain ⟨a, rfl⟩ := zigzag_surjective v
    exact ⟨a, exec_zz_setReg rd ra s a⟩

end Sys2Proof.Machine
end

section
/-! PROOFS. The bits the spec names by index are the model's (R62, R63), and what DEC with a fixed width and ALIGN
answer, check by check (R110 to R113, R122). -/

namespace Sys2Proof.Machine

/-! ### Bits and fields by index -/

theorem spec_bit_eq_windowBit (W : Nat) (win : List Byte) (i : Nat) : Spec.bit W win i = windowBit W win i := by
  rw [Spec.bit, List.getD_eq_getElem?_getD]
  exact Nat.toNat_testBit _ _

theorem spec_bit_eq_bitAt (s : State) (i : Nat) : Spec.bit s.cfg.streamWordBytes s.win i = s.bitAt i :=
  spec_bit_eq_windowBit _ _ _

theorem spec_bits_eq_fieldAt (s : State) (p n : Nat) :
    Spec.bits s.cfg.streamWordBytes s.win p n = s.fieldAt p n := by
  simp only [Spec.bits, spec_bit_eq_bitAt, State.fieldAt_eq_sum]

/-! ### The checks of DEC -/

section
variable {s : State} {badOperand : Bool} (rest : List (Bool × Err)) (ho : s.isOpen = true)
include ho

theorem firstError_decChecks_operand (hbad : badOperand = true) :
    firstError (s.decChecks badOperand ++ rest) = some .illegalOperand := by
  simp [State.decChecks, ho, hbad]

theorem firstError_decChecks_cursor (hgood : badOperand = false) (hv : s.bvalid = false) :
    firstError (s.decChecks badOperand ++ rest) = some .cursorInvalid := by
  simp [State.decChecks, ho, hgood, hv]

theorem firstError_decChecks_pass (hgood : badOperand = false) (hv : s.bvalid = true) :
    firstError (s.decChecks badOperand ++ rest) = firstError rest := by
  simp [State.decChecks, ho, hgood, hv]

end

/-! ### DEC with a fixed width -/

theorem exec_fixedWidth {rd : Reg} {n : Nat} {i : Instr} (hi : i = .decUint rd n ∨ i = .decXbits rd n) (s : State) :
    exec i s = decBits (encode i) rd n s := by
  obtain rfl | rfl := hi <;> rfl

section
variable {s : State} {n : Nat} (w : Word) (rd : Reg) (ho : s.isOpen = true)
include ho

theorem decBits_wide (hn : 32 < n) : decBits w rd n s = .next (s.raise .illegalOperand w) :=
  checked_fail _ (firstError_decChecks_operand _ ho (decide_eq_true hn))

theorem decBits_invalid (hn : n ≤ 32) (hv : s.bvalid = false) : decBits w rd n s = .next (s.raise .cursorInvalid w) :=
  checked_fail _ (firstError_decChecks_cursor _ ho (decide_eq_false (by omega)) hv)

theorem decBits_underrun (hn : n ≤ 32) (hv : s.bvalid = true) (havail : s.avail < n) :
    decBits w rd n s = .next (s.raise .bitUnderrun w) := by
  refine checked_fail _ ?_
  rw [firstError_decChecks_pass _ ho (decide_eq_false (by omega)) hv]
  simp [havail]

theorem decBits_ok (hn : n ≤ 32) (hv : s.bvalid = true) (havail : n ≤ s.avail) :
    decBits w rd n s = .next (s.takeBits rd n) := by
  refine checked_pass _ ?_
  rw [firstError_decChecks_pass _ ho (decide_eq_false (by omega)) hv]
  simp [havail]

end

/-- Settles O36: the sum of R63 is the field the model reads, and the four clauses are the outcomes of DEC's checks. -/
theorem fixedWidthDecode : Obligations.FixedWidthDecode := by
  refine ⟨decode_wordD_fixedWidth, fun s rd n i hi ho => ?_⟩
  rw [exec_fixedWidth hi, spec_bits_eq_fieldAt]
  exact ⟨fun hn hv havail => ⟨s.fieldAt_lt _ n, decBits_ok _ rd ho hn hv havail⟩,
    fun hn => decBits_wide _ rd ho hn,
    fun hn hv => decBits_invalid _ rd ho hn hv,
    fun hn hv havail => decBits_underrun _ rd ho hn hv havail⟩

/-! ### ALIGN -/

theorem exec_align_invalid {s : State} (ho : s.isOpen = true) (hv : s.bvalid = false) :
    exec .align s = .next (s.raise .cursorInvalid (encode .align)) :=
  checked_fail _ (by simp [ho, hv])

/-- ALIGN moves the cursor to a bit index that is the next multiple of 8 (R122). -/
theorem exec_align {s : State} {b : Word} (ho : s.isOpen = true) (hv : s.bvalid = true)
    (hb : b.toNat = 8 * ((s.bitpos.toNat + 7) / 8)) :
    exec .align s = .next (Spec.okAfter { s with bitpos := b } 0#32) := by
  have hbits : BitVec.ofNat 32 (8 * ((s.bitpos.toNat + 7) / 8)) = b := ofNat_eq_of_eq_toNat hb.symm
  calc exec .align s
      = .next (State.complete { s with bitpos := BitVec.ofNat 32 (8 * ((s.bitpos.toNat + 7) / 8)) } 0#32) :=
        checked_pass _ (by simp [ho, hv])
    _ = .next (Spec.okAfter { s with bitpos := b } 0#32) := by rw [hbits]; rfl

/-- Settles O40: `8 · ceil(bitpos / 8)` is at most the bound `8 · len(win)`, and rounding it up again changes
nothing. -/
theorem alignToByte : Obligations.AlignToByte := by
  refine ⟨decodeOfEncode .align rfl, fun s ho => ⟨exec_align_invalid ho, fun hv hpos hwin => ?_⟩⟩
  obtain ⟨b, hb⟩ : ∃ b : Word, b.toNat = 8 * ((s.bitpos.toNat + 7) / 8) :=
    ⟨BitVec.ofNat 32 (8 * ((s.bitpos.toNat + 7) / 8)), by rw [BitVec.toNat_ofNat, Nat.mod_eq_of_lt (by omega)]⟩
  have hagain : b.toNat = 8 * ((b.toNat + 7) / 8) := by omega
  refine ⟨b, exec_align ho hv hb, ?_, ?_, ?_, ?_, exec_align ho hv hagain⟩ <;> omega

end Sys2Proof.Machine
end

section
/-! PROOFS. What DEC RICE answers, by the code at the cursor (R114, R120), and the default RICE_ADAPT on exact integers
(R121). -/

namespace Sys2Proof.Machine

/-! ### The code at the cursor -/

section
variable {s : State} {q k : Nat} (hones : ∀ j, j < q → s.bitAt (s.bitpos.toNat + j) = 1)
  (hzero : s.bitAt (s.bitpos.toNat + q) = 0)
include hones hzero

/-- The quotient is the run of ones (R114). -/
theorem State.unary_of_ones (hq : s.bitpos.toNat + q + 1 ≤ s.bitsHeld) :
    s.unary s.bitpos.toNat 0 s.avail = some (q, s.bitpos.toNat + q + 1) :=
  State.unary_eq_some.mpr ⟨q, by unfold State.avail; omega, fun j hj => by simp [hones j hj], hzero,
    (Nat.zero_add q).symm, rfl⟩

theorem State.riceCode_of_ones (hk : s.bitpos.toNat + q + 1 + k ≤ s.bitsHeld) :
    s.riceCode k =
      some (q * 2 ^ k + s.fieldAt (s.bitpos.toNat + q + 1) k, s.bitpos.toNat + q + 1 + k) := by
  simp only [State.riceCode, State.unary_of_ones hones hzero (by omega)]
  rw [if_neg (by omega)]

/-- The window ends before the remainder's last bit. -/
theorem State.riceCode_of_short_remainder (hq : s.bitpos.toNat + q + 1 ≤ s.bitsHeld)
    (hk : s.bitsHeld < s.bitpos.toNat + q + 1 + k) : s.riceCode k = none := by
  simp only [State.riceCode, State.unary_of_ones hones hzero hq]
  rw [if_pos (by omega)]

end

/-- The window ends before the 0. -/
theorem State.riceCode_of_no_zero {s : State}
    (hones : ∀ j, s.bitpos.toNat + j < s.bitsHeld → s.bitAt (s.bitpos.toNat + j) = 1) (k : Nat) :
    s.riceCode k = none := by
  have hnone : s.unary s.bitpos.toNat 0 s.avail = none :=
    State.unary_eq_none.mpr fun j hj => by simp [hones j (by unfold State.avail at hj; omega)]
  simp only [State.riceCode, hnone]

/-! ### DEC RICE -/

theorem slotOf_val (slot : Fin 2) : slotOf slot.val = slot := Fin.ext (Nat.mod_eq_of_lt slot.isLt)

theorem exec_decRice_slot {s : State} {slot : Nat} (rd : Reg) (ho : s.isOpen = true) (hslot : 2 ≤ slot) :
    exec (.decRice rd slot) s = .next (s.raise .illegalOperand (encode (.decRice rd slot))) :=
  checked_fail _ (firstError_decChecks_operand [] ho (decide_eq_true hslot))

section
variable {s : State} (rd : Reg) (slot : Fin 2) (ho : s.isOpen = true)

theorem slot_in_range : decide (2 ≤ slot.val) = false := decide_eq_false (Nat.not_le.mpr slot.isLt)

include ho

theorem exec_decRice_invalid (hv : s.bvalid = false) :
    exec (.decRice rd slot.val) s = .next (s.raise .cursorInvalid (encode (.decRice rd slot.val))) :=
  checked_fail _ (firstError_decChecks_cursor [] ho (slot_in_range slot) hv)

variable (hv : s.bvalid = true)
include hv

theorem exec_decRice_underrun (hcode : s.riceCode (s.rk.get slot).toNat = none) :
    exec (.decRice rd slot.val) s = .next (s.raise .bitUnderrun (encode (.decRice rd slot.val))) :=
  (checked_pass _ (firstError_decChecks_pass [] ho (slot_in_range slot) hv)).trans
    (by simp only [slotOf_val, hcode])

theorem exec_decRice_overflow {v p : Nat} (hcode : s.riceCode (s.rk.get slot).toNat = some (v, p))
    (hfit : 2 ^ 32 ≤ v) :
    exec (.decRice rd slot.val) s = .next (s.raise .riceOverflow (encode (.decRice rd slot.val))) :=
  (checked_pass _ (firstError_decChecks_pass [] ho (slot_in_range slot) hv)).trans
    (by simp only [slotOf_val, hcode, if_pos hfit])

theorem exec_decRice_ok {v p : Nat} (hcode : s.riceCode (s.rk.get slot).toNat = some (v, p)) (hfit : v < 2 ^ 32) :
    exec (.decRice rd slot.val) s = .next (s.takeRice rd slot v p) :=
  (checked_pass _ (firstError_decChecks_pass [] ho (slot_in_range slot) hv)).trans
    (by simp only [slotOf_val, hcode, if_neg (Nat.not_le.mpr hfit)])

end

/-- Settles O37: the run of ones and the k bits after its 0 are the code the model reads, and its value fits 32 bits
or does not. -/
theorem riceDecode : Obligations.RiceDecode := by
  intro s rd slot q ho hv
  simp only [spec_bit_eq_bitAt, spec_bits_eq_fieldAt]
  intro hones hzero hheld
  have hcode := State.riceCode_of_ones hones hzero hheld
  exact ⟨exec_decRice_ok rd slot ho hv hcode, exec_decRice_overflow rd slot ho hv hcode⟩

/-- Settles O38: the slot, the cursor, and the two ways the window can end inside the code. -/
theorem riceDecodeErrors : Obligations.RiceDecodeErrors := by
  intro s rd slot ho
  simp only [spec_bit_eq_bitAt]
  refine ⟨exec_decRice_slot rd ho, fun hslot => exec_decRice_invalid rd ⟨slot, hslot⟩ ho, ?_, ?_⟩
  · intro hslot hv hones
    exact exec_decRice_underrun rd ⟨slot, hslot⟩ ho hv (State.riceCode_of_no_zero hones _)
  · intro hslot q hv hones hzero hq hk
    exact exec_decRice_underrun rd ⟨slot, hslot⟩ ho hv (State.riceCode_of_short_remainder hones hzero hq hk)

/-! ### Rice adaptation -/

/-- The new KSUM on exact integers: it takes away no more than it holds, so nothing is truncated (R121). -/
theorem riceAdaptStandard_ksum (k : BitVec 5) (ksum v : Word) :
    ((riceAdaptStandard k ksum v).2.toNat : Int) =
      ((ksum.toNat : Int) + v.toNat - ((ksum.toNat : Int) + 8) / 16) % 2 ^ 32 := by
  simp only [riceAdaptStandard, BitVec.toNat_ofNat]
  omega

/-- The new K by the thresholds `2^(k + 4)`, none for k = 0, and `2^(k + 5)`, as the new KSUM meets them (R121). -/
theorem riceAdaptStandard_k_eq (k : BitVec 5) (ksum v : Word) :
    ((riceAdaptStandard k ksum v).1.toNat : Int) =
      if ((riceAdaptStandard k ksum v).2.toNat : Int) < (if k.toNat = 0 then 0 else 2 ^ (k.toNat + 4))
      then (k.toNat : Int) - 1
      else if 2 ^ (k.toNat + 5) ≤ ((riceAdaptStandard k ksum v).2.toNat : Int) ∧ k.toNat < 26 then k.toNat + 1
      else k.toNat := by
  have hk := k.isLt
  have hzero : k = 0 ↔ k.toNat = 0 := by rw [← BitVec.toNat_inj]; rfl
  simp only [riceAdaptStandard, BitVec.toNat_ofNat, Nat.mod_mod, hzero]
  generalize (ksum.toNat + v.toNat - (ksum.toNat + 8) / 16) % 2 ^ 32 = sum
  have hlo : ((sum : Int) < if k.toNat = 0 then 0 else 2 ^ (k.toNat + 4)) ↔
      sum < if k.toNat = 0 then 0 else 2 ^ (k.toNat + 4) := by norm_cast
  have hhi : ((2 : Int) ^ (k.toNat + 5) ≤ sum) ↔ 2 ^ (k.toNat + 5) ≤ sum := by norm_cast
  simp only [hlo, hhi]
  by_cases hfall : sum < if k.toNat = 0 then 0 else 2 ^ (k.toNat + 4)
  · have hpos : k.toNat ≠ 0 := fun h0 => by simp [h0] at hfall
    rw [if_pos hfall, if_pos hfall]
    omega
  · rw [if_neg hfall, if_neg hfall]
    by_cases hrise : 2 ^ (k.toNat + 5) ≤ sum ∧ k.toNat < 26
    · rw [if_pos hrise, if_pos hrise]
      omega
    · rw [if_neg hrise, if_neg hrise]
      omega

/-- Settles O39: `riceAdaptStandard` gives both new values, and above 26 no threshold raises K. -/
theorem defaultRiceAdaptation : Obligations.DefaultRiceAdaptation := by
  intro k ksum v
  refine ⟨riceAdaptStandard_ksum k ksum v, ?_, fun hk => ?_⟩
  · rw [← riceAdaptStandard_ksum]
    exact riceAdaptStandard_k_eq k ksum v
  · obtain ⟨-, -, hfall⟩ := riceAdaptStandard_k k ksum v
    exact hfall hk.le

end Sys2Proof.Machine
end

section
/-! PROOFS. What FILL, FILLR and SEEK answer (R123 to R125), what FILL keeps of the unread bits (R127), and that
`furthest` only rises while a session is open (R128). -/

namespace Sys2Proof.Machine

/-! ### The byte source -/

theorem sourceBytes_eq_readBytes (m : Memory) (pos n : Nat) : Spec.sourceBytes m pos n = m.readBytes pos n := by
  apply List.ext_getElem?
  intro i
  by_cases hi : i < n
  · rw [Memory.readBytes_getElem? m n pos i hi]
    simp [Spec.sourceBytes, hi]
  · have hread : (m.readBytes pos n)[i]? = none :=
      List.getElem?_eq_none (by rw [Memory.readBytes_length]; omega)
    rw [hread]
    simp [Spec.sourceBytes, hi]

/-- A source that delivers gives the bytes asked for when it has them (R61). -/
theorem State.srcRead_of_ok {s : State} {pos n : Nat} (hans : s.nextAnswer = .ok) (hlen : pos + n ≤ s.srcLen) :
    s.srcRead pos n = .ok (s.src.readBytes pos n) := by
  simp only [State.srcRead, hans, if_pos hlen]

/-- In an open session of declared ranges the size asked for at OPEN is the source's (R73). -/
theorem State.Inv.srcRead_of_le {s : State} (h : s.Inv) (ho : s.isOpen = true) (hans : s.nextAnswer = .ok)
    {pos n : Nat} (hpos : pos ≤ s.srcsize.toNat) (hn : n ≤ s.srcsize.toNat - pos) :
    s.srcRead pos n = .ok (s.src.readBytes pos n) :=
  s.srcRead_of_ok hans (by have := h.sizeOpen ho; omega)

theorem State.Inv.streamWordBytes_pos {s : State} (h : s.Inv) : 0 < s.cfg.streamWordBytes := by
  obtain ⟨hw, -⟩ := h.cfgLegal
  omega

/-! ### FILL -/

theorem exec_fill_invalid {s : State} (ho : s.isOpen = true) (hv : s.bvalid = false) :
    exec .fill s = .next (s.raise .cursorInvalid (encode .fill)) :=
  checked_fail _ (by simp [ho, hv])

theorem exec_fill_none {s : State} (ho : s.isOpen = true) (hv : s.bvalid = true) (hn : s.fillCount = 0) :
    exec .fill s = .next ((s.refill [] 0).complete 0#32) :=
  (checked_pass _ (by simp [ho, hv])).trans (if_pos hn)

theorem exec_fill_read {s : State} {bs : List Byte} (ho : s.isOpen = true) (hv : s.bvalid = true)
    (hn : 0 < s.fillCount) (hread : s.srcRead s.srcpos.toNat s.fillCount = .ok bs) :
    exec .fill s = .next ((s.readDone.refill bs s.fillCount).complete 0#32) :=
  (checked_pass _ (by simp [ho, hv])).trans ((if_neg hn.ne').trans (by simp only [hread]))

/-- Settles O41: the spec's counts are `fillDrop` and `fillCount`, and in a state of declared ranges the bytes asked for
lie inside the source. -/
theorem fillRefillsWindow : Obligations.FillRefillsWindow := by
  intro s hs ho hv
  simp only [sourceBytes_eq_readBytes]
  constructor
  · intro hn
    have hcount : s.fillCount = 0 := hn
    rw [exec_fill_none ho hv hcount, hn]
    rfl
  · intro hn hans
    exact exec_fill_read ho hv hn (hs.srcRead_of_le ho hans hs.srcposLe s.fillCount_le.2)

theorem State.CursorInv.srcpos_add_fillCount_le {s : State} (h : s.CursorInv) :
    s.srcpos.toNat + s.fillCount ≤ s.srcsize.toNat := by
  have := h.srcposLe
  have := s.fillCount_le.2
  omega

/-- A FILL that completes has refilled the window with the bytes after `srcpos`, none where none fit or remain, and
the read it may have done leaves the cursor (R123). -/
theorem Done.of_fill {s u : State} {v : Word} (h : Done .fill s u v) :
    u.win = s.win.drop s.fillDrop ++ s.src.readBytes s.srcpos.toNat s.fillCount ∧
    u.bitpos = BitVec.ofNat 32 (s.bitpos.toNat - 8 * s.fillDrop) ∧
    u.srcpos = BitVec.ofNat 32 (s.srcpos.toNat + s.fillCount) ∧ u.srcsize = s.srcsize := by
  cases h
  case decBits => obtain hi | hi := ‹Instr.fill = _ ∨ Instr.fill = _› <;> cases hi
  case fillNone hn => rw [hn]; exact ⟨rfl, rfl, rfl, rfl⟩
  case fill => exact ⟨rfl, rfl, rfl, rfl⟩

/-- Unread bits keep their index from the cursor on: whole words were dropped before it, and bytes added behind
(R127). -/
theorem State.Inv.windowBit_refill {s : State} (h : s.Inv) (more : List Byte) {j : Nat}
    (hj : j < s.avail) :
    windowBit s.cfg.streamWordBytes (s.win.drop s.fillDrop ++ more) (s.bitpos.toNat - 8 * s.fillDrop + j) =
      windowBit s.cfg.streamWordBytes s.win (s.bitpos.toNat + j) := by
  have hW := h.streamWordBytes_pos
  have hdrop := s.fillDrop_le
  have hwords : (s.win.drop s.fillDrop).length % s.cfg.streamWordBytes = 0 := by
    rw [List.length_drop]
    exact Nat.mod_eq_zero_of_dvd (Nat.dvd_sub (Nat.dvd_of_mod_eq_zero h.winWords) (Nat.dvd_mul_right _ _))
  unfold State.avail State.bitsHeld at hj
  rw [windowBit_append hW hwords more (by rw [List.length_drop]; omega)]
  unfold State.fillDrop at hdrop ⊢
  rw [windowBit_drop hW, Nat.mul_assoc]
  congr 1
  omega

/-- FILL reads to within a word of what fits or of what remains (R123). -/
theorem State.fillCount_full {s : State} (hW : 0 < s.cfg.streamWordBytes) :
    s.cfg.bufBytes - (s.win.length - s.fillDrop) < s.fillCount + s.cfg.streamWordBytes ∨
      s.srcsize.toNat - s.srcpos.toNat < s.fillCount + s.cfg.streamWordBytes := by
  have h := Nat.lt_mul_div_succ
    (min (s.cfg.bufBytes - (s.win.length - s.fillDrop)) (s.srcsize.toNat - s.srcpos.toNat)) hW
  rw [Nat.mul_succ] at h
  exact min_lt_iff.mp h

/-- None of the cursor's new numbers wraps. -/
theorem Done.fill_positions {s u : State} {v : Word} (h : Done .fill s u v) (hs : s.CursorInv) :
    u.win.length = s.win.length - s.fillDrop + s.fillCount ∧
    u.bitpos.toNat = s.bitpos.toNat - 8 * s.fillDrop ∧ u.srcpos.toNat = s.srcpos.toNat + s.fillCount := by
  obtain ⟨hwin, hbitpos, hsrcpos, -⟩ := h.of_fill
  rw [hwin, hbitpos, hsrcpos, toNat_ofNat_of_le (Nat.sub_le _ _), toNat_ofNat_of_le hs.srcpos_add_fillCount_le,
    List.length_append, List.length_drop, Memory.readBytes_length]
  exact ⟨rfl, rfl, rfl⟩

/-- Settles O42: an OK is the answer of a FILL that has refilled the window (`Done.of_fill`), to within a word of what
fits or of what remains, with the cursor inside its first word. -/
theorem fillKeepsUnreadBits : Obligations.FillKeepsUnreadBits := by
  intro s t hs _ h hr
  obtain ⟨-, u, hdone, rfl⟩ | ⟨-, u, e, -, -, hcode⟩ := (exec_effect h).of_response hr
  · obtain ⟨hwin, -, -, hsize⟩ := hdone.of_fill
    obtain ⟨hlen, hbitpos, hsrcpos⟩ := hdone.fill_positions hs.cursor
    have hW := hs.streamWordBytes_pos
    have hdrop := s.fillDrop_le
    have hfirst := s.bitpos_sub_fillDrop_lt hW
    have hheld := hs.cursor.fillDrop_le
    obtain ⟨hw, -, hbuf, -⟩ := hs.cfgLegal
    simp only [State.complete_win, State.complete_bitpos, State.complete_srcpos, State.complete_srcsize, hlen, hbitpos,
      hsrcpos, hsize, spec_bit_eq_windowBit]
    refine ⟨by omega, fun j hj => by rw [hwin]; exact hs.windowBit_refill _ hj, ?_⟩
    obtain hfit | hremain := State.fillCount_full hW
    · exact .inl (by omega)
    · exact .inr (by omega)
  · exact absurd hcode.symm e.code_ne_zero

/-! ### FILLR and SEEK -/

section
variable {s : State} {pos bi : Nat} (ho : s.isOpen = true)
include ho

/-- The checks of FILLR and SEEK are R124's range. -/
theorem firstError_refillChecks_pass (hrange : Spec.rangeOk s pos bi) : firstError (s.refillChecks pos bi) = none := by
  obtain ⟨hpos, hbi⟩ : pos ≤ s.srcsize.toNat ∧ bi < 8 * s.windowCount pos := hrange
  simp [State.refillChecks, ho, Nat.not_lt.mpr hpos, Nat.not_le.mpr hbi]

theorem firstError_refillChecks_fail (hrange : ¬ Spec.rangeOk s pos bi) :
    firstError (s.refillChecks pos bi) = some .illegalOperand := by
  have hbad : pos ≤ s.srcsize.toNat → 8 * s.windowCount pos ≤ bi := fun hpos =>
    Nat.not_lt.mp fun hbi => hrange ⟨hpos, hbi⟩
  by_cases hpos : pos ≤ s.srcsize.toNat
  · simp [State.refillChecks, ho, hbad hpos]
  · simp [State.refillChecks, ho, Nat.not_le.mp hpos]

end

/-- Settles O45: of the two range checks the first that fails raises IllegalOperand, before SEEK's flush. -/
theorem refillOperandErrors : Obligations.RefillOperandErrors := by
  intro s ra rb ho
  refine ⟨fun hrange => ?_, exec_fill_invalid ho⟩
  have hchecks := firstError_refillChecks_fail ho hrange
  exact ⟨checked_fail _ hchecks, checked_fail _ hchecks⟩

theorem fillFrom_ok {s : State} {pos bi : Nat} (w : Word)
    (hread : s.srcRead pos (s.windowCount pos) = .ok (s.src.readBytes pos (s.windowCount pos))) :
    fillFrom w pos bi s = .next (Spec.okAfter (Spec.refilled s pos bi) 0#32) := by
  simp only [fillFrom, hread, Spec.refilled, sourceBytes_eq_readBytes]
  rfl

section
variable {s : State} {ra rb : Reg} (ho : s.isOpen = true)
  (hrange : Spec.rangeOk s (s.reg ra).toNat (s.reg rb).toNat)
  (hread : s.srcRead (s.reg ra).toNat (s.windowCount (s.reg ra).toNat) =
    .ok (s.src.readBytes (s.reg ra).toNat (s.windowCount (s.reg ra).toNat)))
include ho hrange hread

theorem exec_fillr_ok :
    exec (.fillr ra rb) s = .next (Spec.okAfter (Spec.refilled s (s.reg ra).toNat (s.reg rb).toNat) 0#32) :=
  (checked_pass _ (firstError_refillChecks_pass ho hrange)).trans (fillFrom_ok _ hread)

/-- SEEK reads as FILLR does: its flush leaves the cursor and the source. -/
theorem exec_seek_ok : exec (.seek ra rb) s =
    .next (Spec.okAfter (Spec.refilled s.flushAll (s.reg ra).toNat (s.reg rb).toNat) 0#32) :=
  (checked_pass _ (firstError_refillChecks_pass ho hrange)).trans (fillFrom_ok (s := s.flushAll) _ hread)

end

/-- Settles O44: the window to be read lies inside the source, so a source that delivers gives all of it. -/
theorem refillAtPosition : Obligations.RefillAtPosition := by
  intro s ra rb hs ho hans hrange
  have hread := hs.srcRead_of_le ho hans hrange.1 (s.windowCount_le (s.reg ra).toNat).2
  exact ⟨exec_fillr_ok ho hrange hread, exec_seek_ok ho hrange hread⟩

theorem exec_flusha {s : State} (ho : s.isOpen = true) : exec .flusha s = .next (s.flushAll.complete 0#32) :=
  checked_pass _ (by simp [ho])

/-- What a SEEK that completes has found. -/
theorem Done.of_seek {s u : State} {ra rb : Reg} {v : Word} (h : Done (.seek ra rb) s u v) :
    s.isOpen = true ∧ Spec.rangeOk s (s.reg ra).toNat (s.reg rb).toNat ∧
    s.srcRead (s.reg ra).toNat (s.windowCount (s.reg ra).toNat) =
      .ok (s.src.readBytes (s.reg ra).toNat (s.windowCount (s.reg ra).toNat)) := by
  cases h
  case decBits => obtain hi | hi := ‹Instr.seek ra rb = _ ∨ Instr.seek ra rb = _› <;> cases hi
  case seek ho hans hpos hlen hbi => exact ⟨ho, ⟨hpos, hbi⟩, s.srcRead_of_ok hans hlen⟩

/-- Settles O46: what SEEK has found FILLR finds after FLUSHA, which leaves the registers, the cursor and the source. -/
theorem seekIsFlushThenRefill : Obligations.SeekIsFlushThenRefill := by
  intro s t ra rb h hr
  obtain ⟨-, u, hdone, -⟩ | ⟨-, u, e, -, -, hcode⟩ := (exec_effect h).of_response hr
  · obtain ⟨ho, hrange, hread⟩ := hdone.of_seek
    cases (exec_seek_ok ho hrange hread).symm.trans h
    exact ⟨_, _, exec_flusha ho, exec_fillr_ok (s := s.flushAll.complete 0#32) ho hrange hread, rfl⟩
  · exact absurd hcode.symm e.code_ne_zero

/-! ### The furthest position -/

/-- A refill raises `furthest` to the new `srcpos` or keeps it (R123, R124); inside the source neither wraps. -/
theorem furthest_le_ofNat_max {furthest size : Word} {n : Nat} (hf : furthest.toNat ≤ size.toNat)
    (hn : n ≤ size.toNat) : furthest.toNat ≤ (BitVec.ofNat 32 (max furthest.toNat n)).toNat := by
  rw [toNat_ofNat_of_le (max_le hf hn)]
  exact le_max_left _ _

/-- OPEN alone sets `furthest` back, and only a closed session can be opened (R128). -/
theorem Done.furthest_le {i : Instr} {s u : State} {v : Word} (h : Done i s u v) (hs : s.CursorInv)
    (ho : s.isOpen = true) : s.furthest.toNat ≤ u.furthest.toNat := by
  cases h
  case csrw c _ _ _ => cases c <;> exact le_rfl
  case openSession hclosed _ _ _ => simp [ho] at hclosed
  case fillNone => exact furthest_le_ofNat_max hs.furthestLe hs.srcposLe
  case fill => exact furthest_le_ofNat_max hs.furthestLe hs.srcpos_add_fillCount_le
  case fillr ra rb _ _ _ _ _ | seek ra rb _ _ _ _ _ =>
    have := s.windowCount_le (s.reg ra).toNat
    exact furthest_le_ofNat_max hs.furthestLe (by omega)
  all_goals exact le_rfl

/-- An error leaves it (R231). -/
theorem Failed.furthest {i : Instr} {s u : State} {e : Err} (h : Failed i s u e) : u.furthest = s.furthest := by
  cases h <;> rfl

/-- Settles O21: `furthest` by the cases of what a command can do, `srcpos` by the invariant of the next state. -/
theorem furthestOnlyRises : Obligations.FurthestOnlyRises := by
  intro i s t hs ho h
  refine ⟨?_, (exec_inv hs h).furthestGe⟩
  obtain ⟨u, v, hd, rfl⟩ | ⟨u, e, hf, rfl⟩ := exec_effect h
  · exact hd.furthest_le hs.cursor ho
  · rw [State.raise_furthest, hf.furthest]

end Sys2Proof.Machine
end

section
/-! PROOFS. What the filter commands answer, check by check (R140, R155, R156, R161, R162), SAT16 (R163) and BUCKET
(R146), and what no filter command touches (R22, R24, R66). -/

namespace Sys2Proof.Machine

/-! ### Instances -/

@[simp] theorem instanceOf_val (f : Fin 8) : instanceOf f.val = f := Fin.ext (instanceOf_lt f.isLt)

theorem spec_flushed_eq_flush (x : Filter) : Spec.flushed x = x.flush := rfl

/-! ### The checks -/

section
variable {s : State} {kind : BitVec 2} (ho : s.isOpen = true)
include ho

theorem firstError_stageChecks_instance {f : Nat} (hf : 8 ≤ f) :
    firstError (s.stageChecks f kind) = some .illegalOperand := by
  simp [State.stageChecks, ho, hf]

theorem firstError_stageChecks_kind {f : Fin 8} (hk : (s.filter f).ftype ≠ kind) :
    firstError (s.stageChecks f.val kind) = some .filterType := by
  simp [State.stageChecks, ho, hk]

theorem firstError_stageChecks_pass {f : Fin 8} (hk : (s.filter f).ftype = kind) :
    firstError (s.stageChecks f.val kind) = none := by
  simp [State.stageChecks, ho, hk]

end

/-- Where the compress commands exist their own check passes (R98). -/
theorem firstError_compressChecks {s : State} (hc : s.cfg.hasCompress = true) (rest : List (Bool × Err)) :
    firstError (s.compressChecks ++ rest) = firstError rest := by
  simp [State.compressChecks, hc]

/-! ### The answers of NND, NNC, FOD and FOC -/

section
variable {s : State} {f : Fin 8} (rd ra : Reg) (ho : s.isOpen = true)
include ho

theorem exec_nnd (hk : (s.filter f).ftype = 1) :
    exec (.nnd rd ra f.val) s = .next (s.stageDone rd f ((s.filter f).nnd s.cfg s.lagsel (s.reg ra))) := by
  rw [exec, execNnd, instanceOf_val]
  exact checked_pass _ (firstError_stageChecks_pass ho hk)

theorem exec_fod (hk : (s.filter f).ftype = 2) :
    exec (.fod rd ra f.val) s = .next (s.stageDone rd f ((s.filter f).fod (s.reg ra))) := by
  rw [exec, execFod, instanceOf_val]
  exact checked_pass _ (firstError_stageChecks_pass ho hk)

variable (hc : s.cfg.hasCompress = true)
include hc

theorem exec_nnc (hk : (s.filter f).ftype = 1) :
    exec (.nnc rd ra f.val) s = .next (s.stageDone rd f ((s.filter f).nnc s.cfg s.lagsel (s.reg ra))) := by
  rw [exec, execNnc, instanceOf_val]
  exact checked_pass _ ((firstError_compressChecks hc _).trans (firstError_stageChecks_pass ho hk))

theorem exec_foc (hk : (s.filter f).ftype = 2) :
    exec (.foc rd ra f.val) s = .next (s.stageDone rd f ((s.filter f).foc (s.reg ra))) := by
  rw [exec, execFoc, instanceOf_val]
  exact checked_pass _ ((firstError_compressChecks hc _).trans (firstError_stageChecks_pass ho hk))

end

/-- Settles O50: the spec's shifted product is the model's term, so the answers are the ones of FOD and FOC. -/
theorem firstOrderSteps : Obligations.FirstOrderSteps :=
  fun _ rd ra _ ho hk => ⟨exec_fod rd ra ho hk, fun hc => exec_foc rd ra ho hc hk⟩

/-! ### The errors of NND, NNC, FOD and FOC -/

/-- `i` is a stage command of instance `f` that this hardware has, for instances of type `kind` (R140). -/
def StageCommand (s : State) (rd ra : Reg) (f : Nat) (i : Instr) (kind : Nat) : Prop :=
  i = .nnd rd ra f ∧ kind = 1 ∨ i = .fod rd ra f ∧ kind = 2 ∨
    s.cfg.hasCompress = true ∧ (i = .nnc rd ra f ∧ kind = 1 ∨ i = .foc rd ra f ∧ kind = 2)

section
variable {s : State} {rd ra : Reg} {f : Nat} {i : Instr} {kind : Nat} (hi : StageCommand s rd ra f i kind)
include hi

/-- A stage command raises the first of its checks' errors. -/
theorem StageCommand.exec_fails {e : Err} (he : firstError (s.stageChecks f (BitVec.ofNat 2 kind)) = some e) :
    exec i s = .next (s.raise e (encode i)) := by
  obtain ⟨rfl, rfl⟩ | ⟨rfl, rfl⟩ | ⟨hc, ⟨rfl, rfl⟩ | ⟨rfl, rfl⟩⟩ := hi
  · exact checked_fail _ he
  · exact checked_fail _ he
  · exact checked_fail _ ((firstError_compressChecks hc _).trans he)
  · exact checked_fail _ ((firstError_compressChecks hc _).trans he)

theorem StageCommand.kind_lt : kind < 2 ^ 2 := by
  obtain ⟨-, rfl⟩ | ⟨-, rfl⟩ | ⟨-, ⟨-, rfl⟩ | ⟨-, rfl⟩⟩ := hi <;> decide

theorem StageCommand.ftype_ne {x : Filter} (hk : x.ftype.toNat ≠ kind) : x.ftype ≠ BitVec.ofNat 2 kind := by
  intro h
  apply hk
  rw [h, BitVec.toNat_ofNat, Nat.mod_eq_of_lt hi.kind_lt]

end

/-- Settles O51: of the checks of an open session's stage command the instance's number comes before its kind. -/
theorem stageCommandErrors : Obligations.StageCommandErrors := by
  intro s rd ra f i kind ho hi
  have hi : StageCommand s rd ra f i kind := hi
  exact ⟨fun hf => hi.exec_fails (firstError_stageChecks_instance ho hf),
    fun hf hk => hi.exec_fails (firstError_stageChecks_kind (f := ⟨f, hf⟩) ho (hi.ftype_ne hk))⟩

/-! ### FLUSHF and FLUSHA -/

theorem decode_wordR_flushf (x : Byte) : decode (Spec.wordR 0x26#8 0 0 0 0 x) = .command (.flushf x.toNat) := by
  rw [wordR_eq_encodeR]
  exact decodeOfEncode (.flushf x.toNat) (decide_eq_true x.isLt)

theorem exec_flush_closed {s : State} (hclosed : s.isOpen = false) (f : Nat) :
    exec (.flushf f) s = .next (s.raise .notOpen (encode (.flushf f))) ∧
      exec .flusha s = .next (s.raise .notOpen (encode .flusha)) :=
  ⟨checked_fail _ (by simp [hclosed]), checked_fail _ (by simp [hclosed])⟩

theorem exec_flushf {s : State} (ho : s.isOpen = true) (f : Fin 8) :
    exec (.flushf f.val) s = .next ((s.setFilter f (s.filter f).flush).complete 0#32) := by
  rw [exec, execFlushf, instanceOf_val]
  exact checked_pass _ (by simp [ho, f.isLt])

theorem exec_flushf_instance {s : State} (ho : s.isOpen = true) {f : Nat} (hf : 8 ≤ f) :
    exec (.flushf f) s = .next (s.raise .illegalOperand (encode (.flushf f))) :=
  checked_fail _ (by simp [ho, hf])

/-- Settles O55: the spec's flushed instance is the model's (`spec_flushed_eq_flush`), one of them or all eight. -/
theorem flushResult : Obligations.FlushResult :=
  ⟨decode_wordR_flushf, decodeOfEncode .flusha rfl, fun _ f hclosed => exec_flush_closed hclosed f,
    fun _ ho => ⟨exec_flushf ho, fun _ hf => exec_flushf_instance ho hf, exec_flusha ho⟩⟩

/-! ### SAT16 -/

theorem decode_wordR_sat16 (rd ra : Reg) : decode (Spec.wordR 0x28#8 rd ra 0 0 0#8) = .command (.sat16 rd ra) := by
  rw [wordR_eq_encodeR]
  exact decodeOfEncode (.sat16 rd ra) rfl

/-- Settles O27: a clamped number fits 32 bits, so its pattern reads back as the number. -/
theorem saturationResult : Obligations.SaturationResult := by
  intro s rd ra
  obtain ⟨hlo, hhi⟩ := sat16_bounds (s.reg ra).toInt
  refine ⟨decode_wordR_sat16 rd ra, wrap32 (sat16 (s.reg ra).toInt), rfl, ?_⟩
  rw [wrap32_toInt (by omega) (by omega), sat16_eq_max_min]

/-! ### BUCKET -/

/-- Settles O49: the three tests of the default in their order; the range is that of every BUCKET (`bucketOf_le`). -/
theorem bucketValues : Obligations.BucketValues := by
  intro a avg
  refine ⟨fun h => if_pos h, fun h h' => ?_, fun h h' hpos => ?_, fun c => ⟨bucketOf_zero c avg, bucketOf_le c a avg⟩⟩
  · rw [bucketOf, bucketStandard, if_neg (Nat.not_lt.mpr h), if_pos h']
  · rw [bucketOf, bucketStandard, if_neg (Nat.not_lt.mpr h), if_neg (Nat.not_lt.mpr h'), if_pos hpos]

/-! ### What no filter command touches -/

/-- A filter command that completes has found a session open, and has changed registers and instances alone. -/
theorem Done.of_stepsFilter {i : Instr} {s u : State} {v : Word} (h : Done i s u v) (hi : i.stepsFilter = true) :
    s.isOpen = true ∧ u = { s with d := u.d, filters := u.filters } := by
  cases h
  case nnd | nnc | fod | foc | casd | casc | flushf | flusha => exact ⟨‹s.isOpen = true›, rfl⟩
  case decBits => obtain rfl | rfl := ‹i = _ ∨ i = _› <;> cases hi
  all_goals cases hi

theorem Failed.of_stepsFilter {i : Instr} {s u : State} {e : Err} (h : Failed i s u e)
    (hi : i.stepsFilter = true) : u = s := by
  cases h
  case hard => rfl
  all_goals cases hi

/-- Settles O20: what a filter command has done it has done to registers and instances, of which every kind of step and
the flush keep the configuration (`Filter.Kept`); the rest is its response and the error record. -/
theorem filterCommandsKeepOtherUnits : Obligations.FilterCommandsKeepOtherUnits := by
  intro i s t hi h
  obtain ⟨u, v, hd, rfl⟩ | ⟨u, e, hf, rfl⟩ := exec_effect h
  · obtain ⟨ho, hu⟩ := hd.of_stepsFilter hi
    have hkept := hd.filters_kept ho
    refine ⟨?_, fun f => ⟨(hkept f).ftype, (hkept f).forder, (hkept f).fshift, (hkept f).fmul⟩⟩
    rw [hu]
    rfl
  · rw [hf.of_stepsFilter hi]
    exact ⟨rfl, fun f => ⟨rfl, rfl, rfl, rfl⟩⟩

end Sys2Proof.Machine
end

section
/-! PROOFS. One step of an order-N instance on exact integers, by the spec's indices (R142 to R150). -/

namespace Sys2Proof.Machine

/-! ### Lists by index -/

/-- Two lists of N elements, the second read from its end, element by element (R142, R143). -/
theorem zipWith_reverse_eq_map {α : Type} {N : Nat} (g : BitVec 16 → BitVec 16 → α) {as bs : List (BitVec 16)}
    (ha : as.length = N) (hb : bs.length = N) :
    List.zipWith g as bs.reverse = (List.range N).map fun j => g (as.getD j 0) (bs.getD (N - j - 1) 0) := by
  apply List.ext_getElem (by simp [ha, hb])
  intro j hj hj'
  have hjN : j < N := by simpa using hj'
  have hlast : bs.length - 1 - j = N - j - 1 := by omega
  simp only [List.getElem_zipWith, List.getElem_reverse, List.getElem_map, List.getElem_range, hlast]
  rw [List.getD_eq_getElem _ _ (by omega), List.getD_eq_getElem _ _ (by omega)]

theorem getD_shiftIn_zero {N : Nat} (hN : 0 < N) (v : BitVec 16) (xs : List (BitVec 16)) :
    (shiftIn N v xs).getD 0 0 = v := by
  rw [List.getD_eq_getElem?_getD, shiftIn_zero_elem hN, Option.getD_some]

theorem getD_shiftIn_succ {N i : Nat} (hi : i + 1 < N) (v : BitVec 16) (xs : List (BitVec 16)) :
    (shiftIn N v xs).getD (i + 1) 0 = xs.getD i 0 := by
  rw [List.getD_eq_getElem?_getD, shiftIn_succ_elem hi, List.getD_eq_getElem?_getD]

theorem toInt_getD_decay {lags : List Nat} (hn : lags.Nodup) (ds : List (BitVec 16)) (i : Nat) :
    ((decay lags ds).getD i 0).toInt = if i ∈ lags then (ds.getD i 0).toInt / 2 else (ds.getD i 0).toInt := by
  simp only [List.getD_eq_getElem?_getD, decay_elem lags hn]
  split
  · cases ds[i]? <;> simp
  · rfl

theorem spec_lags_eq_lagSet (lagsel : BitVec 1) : Spec.lags lagsel = lagSet lagsel := by
  obtain rfl | rfl : lagsel = 0 ∨ lagsel = 1 := by revert lagsel; decide
  all_goals rfl

/-- The direction of a step, sign of its sample or of its residual, as the spec writes it (R149, R150). -/
theorem steer_eq_sign (c : AdaptDir) (sample residual : Int) :
    steer c sample residual = match c with | .sample => sample.sign | .residual => residual.sign := by
  cases c
  · exact sgn_eq_sign sample
  · exact sgn_eq_sign residual

/-- Element `D[1 + i]` after a step is the shifted window's, halved where i is a lag (R145, R148). -/
theorem spec_D_nnUpdate (p : Params) (lagsel : BitVec 1) (x : Filter) (dir sample : Int) (i : Nat) :
    Spec.D (x.nnUpdate p lagsel dir sample) (i + 1) =
      let d := ((shiftIn (Spec.N x) (newDelta p.bucket sample x.avg) x.delta).getD i 0).toInt
      if i ∈ lagSet lagsel then d / 2 else d :=
  toInt_getD_decay (lagSet_nodup lagsel) _ i

/-! ### An order-N instance with its N taps -/

section
variable {x : Filter} (ht : x.ftype = 1) (hs : x.Sized)
include ht hs

theorem Filter.Sized.lengths : x.weights.length = Spec.N x ∧ x.hist.length = Spec.N x ∧ x.delta.length = Spec.N x := by
  have htaps : x.taps = Spec.N x := if_pos ht
  rwa [Filter.Sized, htaps] at hs

theorem spec_pred_eq_pred : Spec.pred x = x.pred := by
  obtain ⟨hw, hh, -⟩ := hs.lengths ht
  have hdot : x.dot = wrap32 (∑ j ∈ Finset.range (Spec.N x), Spec.w x j * Spec.X x (Spec.N x - j)) :=
    congrArg (fun zs : List Int => wrap32 zs.sum) (zipWith_reverse_eq_map (fun w h => w.toInt * h.toInt) hw hh)
  rw [Filter.pred, hdot]
  rfl

theorem getD_adapt (dir : Int) {j : Nat} (hj : j < Spec.N x) :
    (x.adapt dir).getD j 0 = wrap16 (Spec.w x j + dir * Spec.D x (Spec.N x - j)) := by
  obtain ⟨hw, -, hd⟩ := hs.lengths ht
  rw [Filter.adapt, zipWith_reverse_eq_map _ hw hd, List.getD_eq_getElem _ _ (by simpa using hj), List.getElem_map,
    List.getElem_range]
  rfl

/-- The model's update is the step the spec describes element by element (R143 to R148). -/
theorem nnStep_nnUpdate (p : Params) (lagsel : BitVec 1) {dir dir' : Int} {sample : Int} (hdir : dir = dir')
    (hN : 0 < Spec.N x) (havg : x.avg.toNat < 2 ^ 31) (hsample : sample.natAbs ≤ 2 ^ 31) :
    Spec.nnStep p lagsel x (x.nnUpdate p lagsel dir sample) dir' sample := by
  subst hdir
  obtain ⟨hlo, hhi⟩ := sat16_bounds sample
  refine ⟨⟨rfl, rfl, rfl, rfl, rfl⟩, (Filter.nnUpdate_sized p lagsel dir sample hs ht).lengths ht,
    fun j hj => congrArg BitVec.toInt (getD_adapt ht hs dir hj), ?_, ?_, ?_, ?_, (nextAvg_spec havg hsample).2⟩
  · rw [← sat16_eq_max_min, ← wrap16_toInt hlo hhi]
    exact congrArg BitVec.toInt (getD_shiftIn_zero hN _ _)
  · intro i hi hiN
    obtain ⟨k, rfl⟩ := Nat.exists_eq_add_of_le' hi
    exact congrArg BitVec.toInt (getD_shiftIn_succ hiN _ _)
  · refine (spec_D_nnUpdate p lagsel x dir sample 0).trans ?_
    rw [if_neg (zero_notMem_lagSet lagsel), getD_shiftIn_zero hN, newDelta_toInt]
  · intro i hi hiN
    obtain ⟨k, rfl⟩ := Nat.exists_eq_add_of_le' hi
    rw [spec_D_nnUpdate, getD_shiftIn_succ hiN, spec_lags_eq_lagSet]
    rfl

end

/-! ### NND and NNC -/

/-- Settles O47: the sample of the update is NND's output, the residual its input. -/
theorem nndStep : Obligations.NndStep := by
  intro s rd ra f ho ht hs hN havg
  rw [spec_pred_eq_pred ht hs]
  exact ⟨_, exec_nnd rd ra ho ht,
    nnStep_nnUpdate ht hs s.cfg s.lagsel (steer_eq_sign _ _ _) (by omega) havg (natAbs_toInt_le _)⟩

/-- Settles O48: the sample of the update is NNC's input, the residual its output. -/
theorem nncStep : Obligations.NncStep := by
  intro s rd ra f ho hc ht hs hN havg
  rw [spec_pred_eq_pred ht hs]
  exact ⟨_, exec_nnc rd ra ho hc ht,
    nnStep_nnUpdate ht hs s.cfg s.lagsel (steer_eq_sign _ _ _) (by omega) havg (natAbs_toInt_le _)⟩

end Sys2Proof.Machine
end

section
/-! PROOFS. What CASD and CASC answer (R159, R160), and the round trips of a stage and of a channel (R164 P1). -/

namespace Sys2Proof.Machine

/-! ### The cascade over four instances -/

/-- The four slots of a channel in ascending order (R33). -/
theorem channelStages_val (ch : Fin 2) :
    channelStages ch.val = [⟨4 * ch.val, by omega⟩, ⟨4 * ch.val + 1, by omega⟩, ⟨4 * ch.val + 2, by omega⟩,
      ⟨4 * ch.val + 3, by omega⟩] := by
  revert ch; decide

/-- Instances that differ are stepped as they were before the cascade, each on what the one before gave. -/
theorem cascade_four (stage : Filter → Word → Word × Filter) {f g h k : Fin 8} (hne : [f, g, h, k].Nodup)
    (xs : Vector Filter 8) (v : Word) :
    cascade stage [f, g, h, k] xs v =
      let a := stage (xs.get f) v
      let b := stage (xs.get g) a.1
      let c := stage (xs.get h) b.1
      let d := stage (xs.get k) c.1
      (d.1, (((xs.set f.val a.2).set g.val b.2).set h.val c.2).set k.val d.2) := by
  simp only [List.nodup_cons, List.mem_cons, List.not_mem_nil, or_false, not_or, Fin.ext_iff] at hne
  simp [cascade, Vector.get_eq_getElem, Vector.getElem_set_ne, hne]

/-- Writing four different instances, in ascending or descending order, is the same. -/
theorem set_four_reverse (xs : Vector Filter 8) (n : Nat) (hn : n + 3 < 8) (a b c d : Filter) :
    (((xs.set (n + 3) d).set (n + 2) c).set (n + 1) b).set n a =
      (((xs.set n a).set (n + 1) b).set (n + 2) c).set (n + 3) d := by
  ext1 i hi
  simp only [Vector.getElem_set]
  grind

/-! ### CASD and CASC -/

theorem reg_cascadeDone_same (s : State) (rd : Reg) (r : Word × Vector Filter 8) : (s.cascadeDone rd r).reg rd = r.1 :=
  reg_completeReg_same _ _ _

section
variable {s : State} {ch : Nat} (ho : s.isOpen = true)
include ho

theorem firstError_channelChecks_pass (hch : ch < s.channels.toNat) (hch' : ch < 2) :
    firstError (s.channelChecks ch) = none := by
  simp [State.channelChecks, State.badChannel, ho, hch, hch']

theorem firstError_channelChecks_fail (hch : s.channels.toNat ≤ ch) :
    firstError (s.channelChecks ch) = some .illegalOperand := by
  simp [State.channelChecks, State.badChannel, ho, hch]

end

section
variable {s : State} (rd ra : Reg) (ho : s.isOpen = true)
include ho

theorem exec_casd {ch : Nat} (hch : ch < s.channels.toNat) (hch' : ch < 2) :
    exec (.casd rd ra ch) s = .next (s.cascadeDone rd
      (cascade (Filter.decodeStage s.cfg s.lagsel) (channelStages ch) s.filters (s.reg ra))) :=
  checked_pass _ (firstError_channelChecks_pass ho hch hch')

theorem exec_casd_channel {n : Nat} (hn : s.channels.toNat ≤ n) :
    exec (.casd rd ra n) s = .next (s.raise .illegalOperand (encode (.casd rd ra n))) :=
  checked_fail _ (firstError_channelChecks_fail ho hn)

variable (hc : s.cfg.hasCompress = true)
include hc

theorem exec_casc {ch : Nat} (hch : ch < s.channels.toNat) (hch' : ch < 2) :
    exec (.casc rd ra ch) s = .next (s.cascadeDone rd
      (cascade (Filter.encodeStage s.cfg s.lagsel) (channelStages ch).reverse s.filters (s.reg ra))) :=
  checked_pass _ ((firstError_compressChecks hc _).trans (firstError_channelChecks_pass ho hch hch'))

theorem exec_casc_channel {n : Nat} (hn : s.channels.toNat ≤ n) :
    exec (.casc rd ra n) s = .next (s.raise .illegalOperand (encode (.casc rd ra n))) :=
  checked_fail _ ((firstError_compressChecks hc _).trans (firstError_channelChecks_fail ho hn))

end

theorem spec_stage_false (s : State) : Spec.stage false s = Filter.decodeStage s.cfg s.lagsel := rfl

theorem spec_stage_true (s : State) : Spec.stage true s = Filter.encodeStage s.cfg s.lagsel := rfl

/-- Settles O52: a channel's four instances differ (`cascade_four`), and CASC writes them back in descending order
(`set_four_reverse`). -/
theorem cascadeResult : Obligations.CascadeResult := by
  intro s rd ra ch ho
  simp only [spec_stage_false, spec_stage_true]
  refine ⟨fun hch => ⟨?_, fun hc => ?_⟩,
    fun n hn => ⟨exec_casd_channel rd ra ho hn, fun hc => exec_casc_channel rd ra ho hc hn⟩⟩
  · rw [exec_casd rd ra ho hch ch.isLt, channelStages_val, cascade_four _ (by simp)]
    rfl
  · rw [exec_casc rd ra ho hc hch ch.isLt, channelStages_val]
    simp only [List.reverse_cons, List.reverse_nil, List.nil_append, List.cons_append]
    rw [cascade_four _ (by simp)]
    simp only [set_four_reverse]
    rfl

/-! ### Stages in a row, as lists -/

/-- The instances in order, each fed by the one before: the last output and the instances after their step. -/
def runStages (stage : Filter → Word → Word × Filter) : List Filter → Word → Word × List Filter
  | [], v => (v, [])
  | x :: rest, v =>
    let r := stage x v
    let q := runStages stage rest r.1
    (q.1, r.2 :: q.2)

theorem runStages_append (stage : Filter → Word → Word × Filter) (xs ys : List Filter) (v : Word) :
    runStages stage (xs ++ ys) v =
      let a := runStages stage xs v
      let b := runStages stage ys a.1
      (b.1, a.2 ++ b.2) := by
  induction xs generalizing v with
  | nil => rfl
  | cons x xs ih => simp only [List.cons_append, runStages, ih]

/-- A cascade of different instances runs them as they were before it. -/
theorem cascade_eq_runStages (stage : Filter → Word → Word × Filter) {fs : List (Fin 8)} (hfs : fs.Nodup)
    (xs : Vector Filter 8) (v : Word) :
    ((cascade stage fs xs v).1, fs.map (cascade stage fs xs v).2.get) = runStages stage (fs.map xs.get) v := by
  induction fs generalizing xs v with
  | nil => rfl
  | cons f rest ih =>
    obtain ⟨hf, hrest⟩ := List.nodup_cons.mp hfs
    have hsame : rest.map (xs.set f.val (stage (xs.get f) v).2 f.isLt).get = rest.map xs.get := by
      refine List.map_congr_left fun g hg => ?_
      have hne : f.val ≠ g.val := fun e => hf (Fin.ext e ▸ hg)
      simp [Vector.get_eq_getElem, Vector.getElem_set_ne, hne]
    have hnew : (cascade stage (f :: rest) xs v).2.get f = (stage (xs.get f) v).2 := by
      rw [cascade, cascade_other _ _ _ _ _ hf]
      simp [Vector.get_eq_getElem]
    have hrun := ih hrest (xs.set f.val (stage (xs.get f) v).2 f.isLt) (stage (xs.get f) v).1
    rw [hsame] at hrun
    rw [List.map_cons, List.map_cons, hnew, runStages, ← hrun]
    rfl

/-- Stages undone in the opposite order: each finds the instance and the value its partner found (R164 P1). -/
theorem runStages_decode_encode (p : Params) (l : BitVec 1) (xs : List Filter) (v : Word) :
    runStages (Filter.decodeStage p l) xs (runStages (Filter.encodeStage p l) xs.reverse v).1 =
      (v, (runStages (Filter.encodeStage p l) xs.reverse v).2.reverse) := by
  induction xs with
  | nil => rfl
  | cons x xs ih =>
    rw [List.reverse_cons, runStages_append]
    simp only [runStages, Filter.decodeStage_encodeStage, ih, List.reverse_append, List.reverse_singleton,
      List.singleton_append]

/-- CASC on the instances `fs`, then CASD on others equal to them: the value is back, and they are equal again. -/
theorem cascade_decode_encode (p : Params) (l : BitVec 1) {fs gs : List (Fin 8)} (hfs : fs.Nodup) (hgs : gs.Nodup)
    (hdisj : fs.Disjoint gs) {xs : Vector Filter 8} (heq : fs.map xs.get = gs.map xs.get) (v : Word) :
    let r := cascade (Filter.encodeStage p l) fs.reverse xs v
    let q := cascade (Filter.decodeStage p l) gs r.2 r.1
    q.1 = v ∧ fs.map q.2.get = gs.map q.2.get := by
  intro r q
  have hr : (r.1, (fs.map r.2.get).reverse) = runStages (Filter.encodeStage p l) (fs.map xs.get).reverse v := by
    rw [← List.map_reverse, ← List.map_reverse]
    exact cascade_eq_runStages _ (List.nodup_reverse.mpr hfs) xs v
  have hgs_r : gs.map r.2.get = fs.map xs.get := by
    rw [heq]
    exact List.map_congr_left fun g hg =>
      cascade_other _ _ _ _ g fun hf => hdisj (List.mem_reverse.mp hf) hg
  have hfs_q : fs.map q.2.get = fs.map r.2.get :=
    List.map_congr_left fun f hf => cascade_other _ _ _ _ f fun hg => hdisj hf hg
  have hq : (q.1, gs.map q.2.get) = (v, fs.map r.2.get) := by
    have hback := runStages_decode_encode p l (fs.map xs.get) v
    rw [← hr, List.reverse_reverse] at hback
    rw [← hback, ← hgs_r]
    exact cascade_eq_runStages _ hgs r.2 r.1
  obtain ⟨hval, hstages⟩ := Prod.mk.inj hq
  exact ⟨hval, hfs_q.trans hstages.symm⟩

theorem map_channelStages_eq_iff (g : Fin 8 → Filter) :
    (channelStages 0).map g = (channelStages 1).map g ↔
      ∀ (k : Nat) (h : k < 4), g ⟨k, by omega⟩ = g ⟨4 + k, by omega⟩ := by
  have hslots : (channelStages 0).map g = (channelStages 1).map g ↔ g 0 = g 4 ∧ g 1 = g 5 ∧ g 2 = g 6 ∧ g 3 = g 7 := by
    simp [channelStages, stageInstance, instanceOf]
  rw [hslots]
  constructor
  · rintro ⟨h0, h1, h2, h3⟩ k hk
    interval_cases k <;> assumption
  · intro h
    exact ⟨h 0 (by omega), h 1 (by omega), h 2 (by omega), h 3 (by omega)⟩

/-- Settles O54: the stages of channel 1 undo those of channel 0 in the opposite order (`cascade_decode_encode`). -/
theorem cascadeRoundTrip : Obligations.CascadeRoundTrip := by
  intro s rd rd' ra ho hc hch heq
  obtain ⟨hval, hafter⟩ := cascade_decode_encode s.cfg s.lagsel (fs := channelStages 0) (gs := channelStages 1)
    (by decide) (by decide) (by rw [List.disjoint_left]; decide) ((map_channelStages_eq_iff s.filter).mpr heq)
    (s.reg ra)
  have hcasc := exec_casc rd ra ho hc (ch := 0) (by omega) (by omega)
  have hcasd := fun r => exec_casd rd' rd (s := s.cascadeDone rd r) (ch := 1) ho hch (by omega)
  simp only [reg_cascadeDone_same] at hcasd
  exact ⟨_, _, hcasc, hcasd _, (reg_cascadeDone_same _ _ _).trans hval, (map_channelStages_eq_iff _).mp hafter⟩

/-! ### Two equal instances -/

theorem reg_stageDone_same (s : State) (rd : Reg) (f : Fin 8) (r : Word × Filter) : (s.stageDone rd f r).reg rd = r.1 :=
  reg_completeReg_same _ _ _

theorem filter_stageDone_same (s : State) (rd : Reg) (f : Fin 8) (r : Word × Filter) :
    (s.stageDone rd f r).filter f = r.2 := filter_setFilter_same s f r.2

theorem filter_stageDone_of_ne (s : State) (rd : Reg) {f g : Fin 8} (r : Word × Filter) (h : g ≠ f) :
    (s.stageDone rd f r).filter g = s.filter g := filter_setFilter_of_ne s r.2 h

/-- Instance `b`, stepped to the state that `a` has been stepped to, gives its value to `rd'` and equals `a`. -/
theorem stageDone_stageDone (s : State) (rd rd' : Reg) {a b : Fin 8} (hab : a ≠ b) {r q : Word × Filter} {v : Word}
    (hq : q = (v, r.2)) :
    ((s.stageDone rd a r).stageDone rd' b q).reg rd' = v ∧
      ((s.stageDone rd a r).stageDone rd' b q).filter a = ((s.stageDone rd a r).stageDone rd' b q).filter b := by
  subst hq
  refine ⟨reg_stageDone_same _ _ _ _, ?_⟩
  rw [filter_stageDone_same, filter_stageDone_of_ne _ _ _ hab, filter_stageDone_same]

/-- Settles O53: the decode step on `b` finds the instance and the result of the compress step on `a`, and undoes it
(`Filter.nnd_nnc`, `Filter.fod_foc`). -/
theorem stageRoundTrip : Obligations.StageRoundTrip := by
  intro s rd rd' ra a b hab ho hc heq
  have hb : ∀ r : Word × Filter, (s.stageDone rd a r).filter b = s.filter a := fun r =>
    (filter_stageDone_of_ne s rd r hab.symm).trans heq.symm
  refine ⟨fun hk => ⟨_, _, exec_nnc rd ra ho hc hk, exec_nnd rd' rd (f := b) ho (by rw [hb, hk]), ?_⟩,
    fun hk => ⟨_, _, exec_foc rd ra ho hc hk, exec_fod rd' rd (f := b) ho (by rw [hb, hk]), ?_⟩⟩
  · refine stageDone_stageDone s rd rd' hab ?_
    rw [hb, reg_stageDone_same]
    exact Filter.nnd_nnc s.cfg s.lagsel (s.filter a) (s.reg ra)
  · refine stageDone_stageDone s rd rd' hab ?_
    rw [hb, reg_stageDone_same]
    exact Filter.fod_foc (s.filter a) (s.reg ra)

end Sys2Proof.Machine
end

section
/-! PROOFS. Zeros: a flushed instance fed 0 (R164 P3), and the weights after a step whose sample is 0 (R164 P5). -/

namespace Sys2Proof.Machine

/-! ### A direction of 0 -/

/-- Without a direction the adaptation moves no weight of an instance with its N taps (R143). -/
theorem Filter.Sized.adapt_zero {x : Filter} (hs : x.Sized) : x.adapt 0 = x.weights := by
  obtain ⟨hw, -, hd⟩ := hs
  have hkeep : ∀ w d : BitVec 16, wrap16 (w.toInt + 0 * d.toInt) = w := fun w d => by
    rw [zero_mul, add_zero, wrap16, BitVec.ofInt_toInt]
  apply List.ext_getElem (by simp [Filter.adapt, hw, hd])
  intro j hj hj'
  simp only [Filter.adapt, List.getElem_zipWith, hkeep]

@[simp] theorem steer_zero (c : AdaptDir) : steer c 0 0 = 0 := by cases c <;> rfl

/-! ### A flushed instance -/

theorem Filter.flush_dot (x : Filter) : x.flush.dot = 0#32 := by
  simp [Filter.dot, Filter.flush, wrap32]

/-- With a shift of 1 or more the rounding term alone is shifted out (R142). -/
theorem Filter.flush_pred {x : Filter} (hshift : 1 ≤ x.fshift.toNat) : x.flush.pred = 0 := by
  have hS := x.fshift.isLt
  have hround : (2 : Int) ^ (x.fshift.toNat - 1) ≤ 2 ^ 30 := pow_le_pow_right₀ (by norm_num) (by omega)
  have hlt : (2 : Int) ^ (x.fshift.toNat - 1) < 2 ^ x.fshift.toNat := pow_lt_pow_right₀ (by norm_num) (by omega)
  have hpos : (0 : Int) ≤ 2 ^ (x.fshift.toNat - 1) := by positivity
  rw [Filter.pred, Filter.flush_dot, Filter.flush_fshift, BitVec.toInt_zero, zero_add,
    wrap32_toInt (by omega) (by omega), asr, Int.ediv_eq_zero_of_lt hpos hlt]

theorem shiftIn_replicate (n : Nat) (v : BitVec 16) : shiftIn n v (List.replicate n v) = List.replicate n v := by
  rw [shiftIn, ← List.replicate_succ, List.take_replicate, min_eq_left (Nat.le_succ n)]

theorem decay_replicate_zero (lags : List Nat) (n : Nat) : decay lags (List.replicate n 0) = List.replicate n 0 := by
  unfold decay
  induction lags with
  | nil => rfl
  | cons lag rest ih =>
    have hmod : (List.replicate n (0 : BitVec 16)).modify lag halve = List.replicate n 0 := by
      apply List.ext_getElem (by simp)
      simp [List.getElem_modify]
    rw [List.foldl_cons, hmod, ih]

/-- A sample of 0 moves nothing of a flushed predictor: it writes 0 into windows of 0 (R143 to R148). -/
theorem Filter.flush_nnUpdate_zero (p : Params) (lagsel : BitVec 1) {x : Filter} (ht : x.ftype = 1) :
    x.flush.nnUpdate p lagsel 0 0 = x.flush := by
  have hN : x.forder.toNat = x.taps := (if_pos ht).symm
  have hdelta : newDelta p.bucket 0 0 = 0 := by simp [newDelta, sgn, wrap16]
  have hhist : wrap16 (sat16 0) = 0 := rfl
  have havg : nextAvg 0 0 = 0 := rfl
  rw [Filter.nnUpdate, (Filter.flush_sized x).adapt_zero, Filter.flush_avg, Filter.flush_forder, hN, hdelta, hhist,
    havg]
  simp only [Filter.flush, shiftIn_replicate, decay_replicate_zero]

theorem Filter.flush_nnd_zero (p : Params) (lagsel : BitVec 1) {x : Filter} (ht : x.ftype = 1)
    (hshift : 1 ≤ x.fshift.toNat) : x.flush.nnd p lagsel 0 = (0, x.flush) := by
  have hout : wrap32 ((0 : Word).toInt + x.flush.pred) = 0 := by rw [Filter.flush_pred hshift]; rfl
  rw [Filter.nnd, hout]
  simp [Filter.flush_nnUpdate_zero p lagsel ht]

theorem Filter.flush_fod_zero (x : Filter) : x.flush.fod 0 = (0, x.flush) := by
  have hterm : x.flush.foTerm = 0 := by simp [Filter.foTerm, wrap32, asr]
  have hout : wrap32 ((0 : Word).toInt + x.flush.foTerm) = 0 := by rw [hterm]; rfl
  rw [Filter.fod, hout]
  rfl

/-! ### A step that changes no instance -/

theorem stageDone_filter_same (s : State) (rd : Reg) (f : Fin 8) (v : Word) :
    s.stageDone rd f (v, s.filter f) = Spec.okReg s rd v := by
  have hset : s.setFilter f (s.filter f) = s := by simp [State.setFilter, State.filter, Vector.get_eq_getElem]
  rw [State.stageDone, hset]
  rfl

/-- Settles O56: every part of a step on zeros gives zeros (`Filter.flush_nnd_zero`, `Filter.flush_fod_zero`). -/
theorem flushedStageStaysZero : Obligations.FlushedStageStaysZero := by
  intro s rd ra f ho hin hflushed
  rw [spec_flushed_eq_flush] at hflushed
  refine ⟨fun hk hshift => ?_, fun hk => ?_⟩
  · have hstep : (s.filter f).nnd s.cfg s.lagsel 0 = (0, s.filter f) := by
      rw [hflushed]; exact Filter.flush_nnd_zero _ _ hk hshift
    rw [exec_nnd rd ra ho hk, hin, hstep, stageDone_filter_same]
  · have hstep : (s.filter f).fod 0 = (0, s.filter f) := by rw [hflushed]; exact Filter.flush_fod_zero _
    rw [exec_fod rd ra ho hk, hin, hstep, stageDone_filter_same]

/-! ### A sample of 0 -/

/-- A checked command whose work never stops has raised an error or has done its work. -/
theorem checked_next_done {s t u : State} {w : Word} {cs : List (Bool × Err)} (h : checked s w cs (.next u) = .next t) :
    (∃ e, t = s.raise e w) ∨ t = u := by
  obtain ⟨e, -, ht⟩ | ⟨-, hgo⟩ := checked_next h
  · exact .inl ⟨e, ht⟩
  · exact .inr (Host.Outcome.next.inj hgo).symm

section
variable {s t : State} {rd ra : Reg} {f : Fin 8}

theorem exec_nnd_next (h : exec (.nnd rd ra f.val) s = .next t) :
    (∃ e, t = s.raise e (encode (.nnd rd ra f.val))) ∨
      t = s.stageDone rd f ((s.filter f).nnd s.cfg s.lagsel (s.reg ra)) := by
  rw [exec, execNnd, instanceOf_val] at h
  exact checked_next_done h

theorem exec_nnc_next (h : exec (.nnc rd ra f.val) s = .next t) :
    (∃ e, t = s.raise e (encode (.nnc rd ra f.val))) ∨
      t = s.stageDone rd f ((s.filter f).nnc s.cfg s.lagsel (s.reg ra)) := by
  rw [exec, execNnc, instanceOf_val] at h
  exact checked_next_done h

end

section
variable {p : Params} (lagsel : BitVec 1) {x : Filter} (hp : p.adaptDir = .sample) (hs : x.Sized)
include hp hs

/-- A sample of 0 has the sign 0, which steers no weight (R143, R149, R150). -/
theorem Filter.nnUpdate_weights_of_sample_zero (residual : Int) :
    (x.nnUpdate p lagsel (steer p.adaptDir 0 residual) 0).weights = x.weights := by
  rw [hp]
  exact hs.adapt_zero

theorem Filter.nnd_weights_of_output_zero {v : Word} (hout : (x.nnd p lagsel v).1 = 0#32) :
    (x.nnd p lagsel v).2.weights = x.weights := by
  have hzero : wrap32 (v.toInt + x.pred) = 0#32 := hout
  rw [Filter.nnd, hzero]
  exact Filter.nnUpdate_weights_of_sample_zero lagsel hp hs _

theorem Filter.nnc_weights_of_zero : (x.nnc p lagsel 0#32).2.weights = x.weights :=
  Filter.nnUpdate_weights_of_sample_zero lagsel hp hs _

end

/-- Settles O57: NND's sample is the value it responds with, NNC's its input; an error leaves the instance. -/
theorem zeroSampleKeepsWeights : Obligations.ZeroSampleKeepsWeights := by
  intro s t rd ra f hp _ hs
  refine ⟨fun h hr => ?_, fun h hin => ?_⟩
  · obtain ⟨e, rfl⟩ | rfl := exec_nnd_next h
    · rfl
    · have hout : ((s.filter f).nnd s.cfg s.lagsel (s.reg ra)).1 = 0#32 :=
        congrArg Response.value (List.singleton_injective (List.append_cancel_left hr))
      rw [filter_stageDone_same]
      exact Filter.nnd_weights_of_output_zero s.lagsel hp hs hout
  · obtain ⟨e, rfl⟩ | rfl := exec_nnc_next h
    · rfl
    · rw [filter_stageDone_same, hin]
      exact Filter.nnc_weights_of_zero s.lagsel hp hs

end Sys2Proof.Machine
end

section
/-! PROOFS. MS2LR (R180, R182): its samples as sums and differences of 32-bit patterns, its answer, and why it inverts
the mid/side transform. -/

namespace Sys2Proof.Machine

/-! ### The samples of MS2LR -/

theorem halfDiff_eq_ite (msround : BitVec 1) (y : Int) :
    halfDiff msround y = if msround = 1 then y / 2 else y.tdiv 2 := by
  obtain rfl | rfl := BitVec.eq_zero_or_eq_one msround
  · rfl
  · rfl

theorem rightSample_eq_sub (msround : BitVec 1) (mid diff : Word) :
    rightSample msround mid diff = mid - BitVec.ofInt 32 (halfDiff msround diff.toInt) := by
  rw [rightSample, wrap32, Int.sub_eq_add_neg, BitVec.ofInt_add, BitVec.ofInt_neg, BitVec.ofInt_toInt,
    BitVec.sub_eq_add_neg]

theorem leftSample_eq_add (msround : BitVec 1) (mid diff : Word) :
    leftSample msround mid diff = rightSample msround mid diff + diff := by
  rw [leftSample, wrap32, BitVec.ofInt_add, BitVec.ofInt_toInt, BitVec.ofInt_toInt]

/-- The left sample as the one number R180 narrows: the wrap of the right sample does not show. -/
theorem leftSample_eq_ofInt (msround : BitVec 1) (mid diff : Word) :
    leftSample msround mid diff = BitVec.ofInt 32 (mid.toInt - halfDiff msround diff.toInt + diff.toInt) := by
  rw [leftSample_eq_add, rightSample, wrap32, BitVec.ofInt_add, BitVec.ofInt_toInt]

/-! ### What MS2LR answers -/

theorem decode_wordR_ms2lr (rd rc ra rb : Reg) :
    decode (Spec.wordR 0x30#8 rd ra rb rc 0#8) = .command (.ms2lr rd rc ra rb) := by
  rw [wordR_eq_encodeR]
  exact decodeOfEncode (.ms2lr rd rc ra rb) rfl

theorem exec_ms2lr_same {rd rc : Reg} (h : rd = rc) (ra rb : Reg) (s : State) :
    exec (.ms2lr rd rc ra rb) s = .next (Spec.errAfter s 0x02#8 (encode (.ms2lr rd rc ra rb))) :=
  checked_fail (e := .illegalOperand) _ (by simp [h])

theorem exec_ms2lr_of_ne {rd rc : Reg} (h : rd ≠ rc) (ra rb : Reg) (s : State) :
    exec (.ms2lr rd rc ra rb) s = .next (((s.setReg rd (leftSample s.msround (s.reg ra) (s.reg rb))).setReg rc
      (rightSample s.msround (s.reg ra) (s.reg rb))).complete (leftSample s.msround (s.reg ra) (s.reg rb))) :=
  checked_pass _ (by simp [h])

/-- Settles O28: the whole answer for distinct destinations (`exec_ms2lr_of_ne`), with the two samples as the numbers
of R180. -/
theorem midSideResult : Obligations.MidSideResult := by
  intro s rd rc ra rb
  refine ⟨decode_wordR_ms2lr rd rc ra rb, fun h => exec_ms2lr_same h ra rb s, fun h => ?_⟩
  rw [exec_ms2lr_of_ne h, leftSample_eq_ofInt, rightSample, halfDiff_eq_ite]
  rfl

/-- Settles O29: `(R + h) - h = R`, as MS2LR takes its `h` from the same difference, and then `R + (L - R) = L`. -/
theorem midSideInverts : Obligations.MidSideInverts := by
  intro s rd rc ra rb L R hne hdiff hmid
  have hright : rightSample s.msround (s.reg ra) (s.reg rb) = R := by
    rw [rightSample_eq_sub, hdiff, hmid, halfDiff_eq_ite, BitVec.add_sub_cancel]
  have hleft : leftSample s.msround (s.reg ra) (s.reg rb) = L := by
    rw [leftSample_eq_add, hright, hdiff, BitVec.add_comm, BitVec.sub_add_cancel]
  refine ⟨_, exec_ms2lr_of_ne hne ra rb s, ?_, ?_⟩
  · rw [reg_complete, reg_setReg_of_ne _ _ hne, reg_setReg_same, hleft]
  · rw [reg_complete, reg_setReg_same, hright]

end Sys2Proof.Machine
end

section
/-! PROOFS. The PCM output and the frame CRC (R190 to R195): the spec's packing and CRC are the model's, what EMIT, SIL,
CRCS and CRCE answer, and the only commands that move FERR (R22, R196). -/

namespace Sys2Proof.Machine

/-! ### FERR -/

/-- Of the commands that complete only CRCS and OPEN touch FERR, and they clear it. -/
theorem Done.ferr_cases {i : Instr} {s u : State} {v : Word} (h : Done i s u v) :
    u.ferr = s.ferr ∨ u.ferr = false ∧ (i = .crcs ∨ i = .openSession) := by
  cases h
  case crcs => exact .inr ⟨rfl, .inl rfl⟩
  case openSession => exact .inr ⟨rfl, .inr rfl⟩
  case csrw ra c _ _ _ =>
    obtain ⟨-, -, -, -, -, -, -, -, -, -, -, -, -, hferr⟩ := csrSet_frame s c (s.reg ra)
    exact .inl hferr
  all_goals exact .inl rfl

/-- Of the errors only CRCE's mismatch touches FERR, and it sets it. -/
theorem Failed.ferr_cases {i : Instr} {s u : State} {e : Err} (h : Failed i s u e) :
    u.ferr = s.ferr ∨ u.ferr = true ∧ ∃ rd, i = .crce rd ∧ Spec.crcFinal s.cfg s.crcacc ≠ s.crcstored := by
  cases h
  case crce rd _ hmismatch => exact .inr ⟨rfl, rd, rfl, hmismatch⟩
  all_goals exact .inl rfl

/-- Settles O19, by the cases of what a command can do (`exec_effect`): neither the response nor the error record holds
FERR. -/
theorem ferrChangesOnlyByFrameCommands : Obligations.FerrChangesOnlyByFrameCommands := by
  intro i s t h hne
  obtain ⟨u, v, hd, rfl⟩ | ⟨u, e, hf, rfl⟩ := exec_effect h
  · exact .inr (hd.ferr_cases.resolve_left hne)
  · exact .inl (hf.ferr_cases.resolve_left hne)

/-! ### The session check -/

section
variable {s : State} (w : Word) (go : Result)

theorem checked_isOpen_closed (hclosed : s.isOpen = false) :
    checked s w [(!s.isOpen, .notOpen)] go = .next (Spec.errAfter s 0x03#8 w) :=
  checked_fail (e := .notOpen) go (by simp [hclosed])

theorem checked_isOpen_open (ho : s.isOpen = true) : checked s w [(!s.isOpen, .notOpen)] go = go :=
  checked_pass go (by simp [ho])

end

/-! ### Packing and CRC by the spec's formulas -/

theorem lowBytes_eq_map_range (n : Nat) (v : Word) :
    lowBytes v n = (List.range n).map fun i => (v >>> (8 * i)).setWidth 8 := by
  apply List.ext_getElem?
  intro i
  by_cases hi : i < n
  · rw [lowBytes_elem n v i hi, List.getElem?_map, List.getElem?_range hi, Option.map_some]
  · rw [List.getElem?_eq_none (by simpa using hi), List.getElem?_eq_none (by simpa using hi)]

theorem spec_packed_eq_pack (big : Bool) (n : Nat) (v : Word) : Spec.packed big n v = pack big n v := by
  rw [pack, lowBytes_eq_map_range]
  rfl

/-- The shift of R194 tests the accumulator's lowest bit, which is its parity. -/
theorem crcShift_eq_ite_getLsbD (poly acc : Word) :
    crcShift poly acc = if acc.getLsbD 0 then (acc >>> 1) ^^^ poly else acc >>> 1 := by
  simp [crcShift, BitVec.getLsbD, Nat.testBit_zero]

theorem spec_crcByte_eq_crcByte (poly : Word) : Spec.crcByte poly = crcByte poly := by
  funext acc b
  simp only [Spec.crcByte, ← crcShift_eq_ite_getLsbD]
  exact List.foldl_const (crcShift poly) _ (List.range 8)

/-! ### EMIT -/

theorem decode_wordR_emit (ra rb : Reg) : decode (Spec.wordR 0x32#8 0 ra rb 0 0#8) = .command (.emit ra rb) := by
  rw [wordR_eq_encodeR]
  exact decodeOfEncode (.emit ra rb) rfl

/-- A block is the first sample's bytes, and in a stream of two channels the second's after them (R190, R191). -/
theorem State.blockBytes_eq_ite {s : State} (hch : s.channels = 1 ∨ s.channels = 2) (a b : Word) :
    s.blockBytes a b =
      if s.channels = 1 then pack s.cfg.pcmBigEndian s.bytesPerSample a
      else pack s.cfg.pcmBigEndian s.bytesPerSample a ++ pack s.cfg.pcmBigEndian s.bytesPerSample b := by
  obtain hch | hch := hch <;> simp [State.blockBytes, hch, channelBytes]

theorem exec_emit {s : State} (ho : s.isOpen = true) (ra rb : Reg) :
    exec (.emit ra rb) s = .next ((s.emitBytes (s.blockBytes (s.reg ra) (s.reg rb))).complete 0#32) :=
  checked_isOpen_open _ _ ho

/-- Settles O58: the bytes of the statement are the block the model appends and folds, of BLOCKALIGN bytes. -/
theorem emitResult : Obligations.EmitResult := by
  refine ⟨decode_wordR_emit, fun s ra rb => checked_isOpen_closed _ _, fun s ra rb ho hch _ => ?_⟩
  intro pk bs
  have hbs : bs = s.blockBytes (s.reg ra) (s.reg rb) := by
    simp only [bs, pk, spec_packed_eq_pack]
    exact (State.blockBytes_eq_ite hch _ _).symm
  rw [hbs, spec_crcByte_eq_crcByte]
  exact ⟨s.blockBytes_length _ _, exec_emit ho ra rb⟩

/-! ### SIL and CRCS -/

theorem exec_sil {s : State} (ho : s.isOpen = true) :
    exec .sil s = .next (Spec.okAfter
      { s with out := s.out ++ List.replicate (s.silcnt.toNat * s.blockAlign) 0#8, silcnt := 0 } 0#32) :=
  checked_isOpen_open _ _ ho

theorem exec_crcs {s : State} (ho : s.isOpen = true) :
    exec .crcs s = .next (Spec.okAfter { s with crcacc := s.cfg.crcInit, ferr := false } 0#32) :=
  checked_isOpen_open _ _ ho

/-- Settles O59: the two words are the commands' encodings, and the silence is one list of equal bytes. -/
theorem silenceAndFrameStart : Obligations.SilenceAndFrameStart :=
  ⟨decodeOfEncode .sil rfl, decodeOfEncode .crcs rfl,
    fun _ hclosed => ⟨checked_isOpen_closed _ _ hclosed, checked_isOpen_closed _ _ hclosed⟩,
    fun _ ho => ⟨⟨_, exec_sil ho, fun _ => List.eq_of_mem_replicate, List.length_replicate⟩, exec_crcs ho⟩⟩

/-! ### CRCE -/

theorem decode_wordR_crce (rd : Reg) : decode (Spec.wordR 0x39#8 rd 0 0 0 0#8) = .command (.crce rd) := by
  rw [wordR_eq_encodeR]
  exact decodeOfEncode (.crce rd) rfl

theorem exec_crce_match {s : State} (ho : s.isOpen = true) (rd : Reg) (h : crcFinal s.cfg s.crcacc = s.crcstored) :
    exec (.crce rd) s = .next (s.completeReg rd 1#32) :=
  (checked_isOpen_open _ _ ho).trans (if_pos h)

theorem exec_crce_mismatch {s : State} (ho : s.isOpen = true) (rd : Reg)
    (h : crcFinal s.cfg s.crcacc ≠ s.crcstored) :
    exec (.crce rd) s = .next (State.raise (State.setReg { s with ferr := true } rd 0#32) .frameIntegrityError
      (encode (.crce rd))) :=
  (checked_isOpen_open _ _ ho).trans (if_neg h)

/-- Settles O60: the spec's final CRC is the model's, and the verdict its comparison with CRCSTORED. -/
theorem frameEndVerdict : Obligations.FrameEndVerdict :=
  ⟨decode_wordR_crce, fun _ _ => checked_isOpen_closed _ _,
    fun _ rd ho => ⟨exec_crce_match ho rd, exec_crce_mismatch ho rd⟩⟩

end Sys2Proof.Machine
end

section
/-! PROOFS. The words of format I as the encoder's numbers (R92), and the register commands NOP, LI, LIH, MOV and MONO
(R181, R210 to R213). -/

namespace Sys2Proof

/-! ### Words of the register commands -/

theorem wordI_eq_encodeI (op : Byte) (rd : Reg) (imm16 : BitVec 16) :
    Spec.wordI op rd imm16 = encodeI op.toNat rd imm16.toNat := by
  have hsum := encodeI_lt op.isLt rd imm16.toNat
  apply BitVec.eq_of_toNat_eq
  simp only [Spec.wordI, encodeI, toNat_append_eq_add, BitVec.toNat_ofNat, Nat.mod_eq_of_lt hsum]
  omega

theorem decode_wordI_li (rd : Reg) (x : BitVec 16) : decode (Spec.wordI 0x01#8 rd x) = .command (.li rd x.toInt) := by
  have hfits : fitsS16 x.toInt = true := by
    have hlo := BitVec.le_toInt x
    have hhi := BitVec.toInt_lt (x := x)
    exact decide_eq_true (by omega)
  have hfield : (x.toInt % 65536).toNat = x.toNat := by
    have hx := x.isLt
    rw [BitVec.toInt_eq_toNat_cond]
    split <;> omega
  rw [wordI_eq_encodeI, ← hfield]
  exact decodeOfEncode (.li rd x.toInt) hfits

theorem decode_wordI_lih (rd : Reg) (x : BitVec 16) :
    decode (Spec.wordI 0x02#8 rd x) = .command (.lih rd x.toNat) := by
  rw [wordI_eq_encodeI]
  exact decodeOfEncode (.lih rd x.toNat) (decide_eq_true x.isLt)

/-- The rows of LI and LIH fix bits [19:16] to 0 (R92, R94). -/
theorem reservedI_of_match {w : Word} {i : Instr} (hi : i.opcode = 0x01 ∨ i.opcode = 0x02)
    (h : w &&& i.row.mask = i.row.bits) : field w 16 4 = 0 := by
  cases i
  case li | lih =>
    dsimp only [Instr.row] at h
    exact field_eq_of_mask h (by decide) (by decide)
  all_goals simp [Instr.opcode] at hi

/-- A word of LI's or LIH's opcode with a non-zero bit of [19:16] spells no command (R92, R98). -/
theorem decode_ne_command_of_reservedI {w : Word} (hop : field w 24 8 = 0x01 ∨ field w 24 8 = 0x02)
    (hz : field w 16 4 ≠ 0) (i : Instr) : decode w ≠ .command i := by
  intro hdec
  have hmatch := match_of_decode hdec
  have hi : field w 24 8 = i.opcode := opcodeField_of_match hmatch
  rw [hi] at hop
  exact hz (reservedI_of_match hop hmatch)

theorem decode_wordR_mov (rd ra : Reg) : decode (Spec.wordR 0x03#8 rd ra 0 0 0#8) = .command (.mov rd ra) := by
  rw [wordR_eq_encodeR]
  exact decodeOfEncode (.mov rd ra) rfl

theorem decode_wordR_mono (rd ra : Reg) : decode (Spec.wordR 0x31#8 rd ra 0 0 0#8) = .command (.mono rd ra) := by
  rw [wordR_eq_encodeR]
  exact decodeOfEncode (.mono rd ra) rfl

end Sys2Proof

namespace Sys2Proof.Machine

/-! ### NOP, MOV and MONO -/

theorem exec_nop (s : State) : exec .nop s = .next (Spec.okAfter s 0#32) := rfl

theorem exec_mov (rd ra : Reg) (s : State) : exec (.mov rd ra) s = .next (Spec.okReg s rd (s.reg ra)) := rfl

theorem exec_mono (rd ra : Reg) (s : State) : exec (.mono rd ra) s = .next (Spec.okReg s rd (s.reg ra)) := rfl

/-- Settles O24: the words are the commands' encodings, and the answers are the commands' meanings. -/
theorem nopMovMono : Obligations.NopMovMono := fun s rd ra =>
  ⟨decodeOfEncode .nop rfl, decode_wordR_mov rd ra, decode_wordR_mono rd ra, exec_nop s, exec_mov rd ra s,
    exec_mono rd ra s⟩

/-! ### LI and LIH -/

theorem exec_li (rd : Reg) (imm : Int) (s : State) :
    exec (.li rd imm) s = .next (Spec.okReg s rd (wrap32 imm)) := rfl

theorem exec_lih (rd : Reg) (imm : Nat) (s : State) :
    exec (.lih rd imm) s = .next (Spec.okReg s rd (withHigh imm (s.reg rd))) := rfl

theorem reg_okReg_same (s : State) (rd : Reg) (v : Word) : (Spec.okReg s rd v).reg rd = v :=
  reg_completeReg_same s rd v

theorem withHigh_toNat (imm : Nat) (v : Word) :
    (withHigh imm v).toNat = imm % 65536 * 65536 + v.toNat % 65536 := by
  rw [withHigh, BitVec.toNat_ofNat, Nat.mod_eq_of_lt (by omega)]

/-- LI of a constant's lower half loads that half, whatever its sign makes of the upper one. -/
theorem wrap32_lowHalf_mod (c : Word) : (wrap32 (c.setWidth 16).toInt).toNat % 65536 = c.toNat % 65536 := by
  have hlow : (c.setWidth 16).toNat = c.toNat % 65536 := BitVec.toNat_setWidth 16 c
  rw [wrap32, BitVec.toNat_ofInt, BitVec.toInt_eq_toNat_cond, hlow]
  split <;> omega

theorem withHigh_halves (c : Word) : withHigh (c.toNat / 65536) (wrap32 (c.setWidth 16).toInt) = c := by
  have hc := c.isLt
  apply BitVec.eq_of_toNat_eq
  rw [withHigh_toNat, wrap32_lowHalf_mod]
  omega

/-- Settles O25: LIH keeps the lower half that LI has loaded (`wrap32_lowHalf_mod`) under the upper half it loads. -/
theorem loadImmediates : Obligations.LoadImmediates := by
  intro s rd
  refine ⟨fun x => ⟨decode_wordI_li rd x, decode_wordI_lih rd x⟩, fun w => decode_ne_command_of_reservedI, ?_, ?_, ?_⟩
  · intro imm hlo hhi
    exact ⟨_, exec_li rd imm s, wrap32_toInt (by omega) (by omega)⟩
  · intro imm himm
    refine ⟨_, exec_lih rd imm s, ?_, ?_⟩
    · rw [withHigh_toNat]; omega
    · rw [withHigh_toNat]; omega
  · intro c
    refine ⟨_, _, exec_li rd _ s, exec_lih rd _ _, ?_⟩
    rw [reg_okReg_same, reg_okReg_same, withHigh_halves]

end Sys2Proof.Machine
end

section
/-! PROOFS. The CSR map by address (R25), and what CSRR and CSRW answer (R24, R214, R215). -/

namespace Sys2Proof

theorem decode_wordR_csrr (rd : Reg) (x : Byte) :
    decode (Spec.wordR 0x04#8 rd 0 0 0 x) = .command (.csrr rd x.toNat) := by
  rw [wordR_eq_encodeR]
  exact decodeOfEncode (.csrr rd x.toNat) (decide_eq_true x.isLt)

theorem decode_wordR_csrw (ra : Reg) (x : Byte) :
    decode (Spec.wordR 0x05#8 0 ra 0 0 x) = .command (.csrw x.toNat ra) := by
  rw [wordR_eq_encodeR]
  exact decodeOfEncode (.csrw x.toNat ra) (decide_eq_true x.isLt)

end Sys2Proof

namespace Sys2Proof.Machine

/-! ### The map by address -/

/-- The registers outside the groups of the filter instances, by address (R25). -/
def singleCsrs : List (Nat × Csr) :=
  [(0x00, .status), (0x01, .errlog), (0x02, .lasterr), (0x03, .lastcmd), (0x04, .lastseq), (0x05, .seq),
    (0x08, .version), (0x09, .channels), (0x0A, .bitsps), (0x0B, .bytesps), (0x0C, .blockalign), (0x0D, .lagsel),
    (0x0E, .msround), (0x10, .bitpos), (0x11, .bitsheld), (0x12, .srcpos), (0x13, .furthest), (0x14, .srcsize),
    (0x18, .rk 0), (0x19, .rk 1), (0x1C, .rksum 0), (0x1D, .rksum 1), (0x20, .crcacc), (0x21, .crcstored),
    (0x22, .silcnt)]

/-- The registers of filter instance `f`, by their place in its group (R25). -/
def filterCsrs (f : Fin 8) : List (Nat × Csr) :=
  [(0, .ftype f), (1, .forder f), (2, .fshift f), (3, .fmul f), (4, .favg f), (5, .flast f)]

/-- What CSRR is to read at the place of a register's row. -/
def State.csrRow (s : State) (p : Nat × Csr) : Nat × Word := (p.1, s.csrValue p.2)

theorem csrAt_of_mem_singleCsrs : ∀ p ∈ singleCsrs, csrAt p.1 = some p.2 := by decide

theorem csrAt_of_mem_filterCsrs : ∀ f : Fin 8, ∀ p ∈ filterCsrs f, csrAt (0x40 + 8 * f.val + p.1) = some p.2 := by
  decide

/-- Above SILCNT only the groups of the filter instances hold registers. -/
theorem csrAt_eq_none_of_ge {a : Nat} (h : 0x23 ≤ a) (hgroup : ¬ (0x40 ≤ a ∧ a < 0x80)) : csrAt a = none := by
  unfold csrAt
  rw [if_neg hgroup]
  split
  case h_26 => rfl
  all_goals omega

/-- The last two places of a group hold no register. -/
theorem csrAt_eq_none_of_group {a : Nat} (hlo : 0x40 ≤ a) (hhi : a < 0x80) (hplace : 6 ≤ a % 8) :
    csrAt a = none := by
  rw [csrAt, if_pos ⟨hlo, hhi⟩]
  split
  case h_7 => rfl
  all_goals omega

theorem csrAt_of_noAddress {a : Nat} (h : Spec.noAddress a) : csrAt a = none := by
  obtain hgap | ⟨hlo, hhi⟩ | ⟨hlo, hhi, hplace⟩ | hhigh := h
  · revert a
    decide
  · exact csrAt_eq_none_of_ge hlo (by omega)
  · exact csrAt_eq_none_of_group hlo hhi hplace
  · exact csrAt_eq_none_of_ge (by omega) (by omega)

/-! ### CSRR -/

theorem exec_csrr {a : Nat} {c : Csr} (h : csrAt a = some c) (rd : Reg) (s : State) :
    exec (.csrr rd a) s = .next (Spec.okReg s rd (s.csrValue c)) :=
  execCsrr_value s rd h

theorem exec_csrr_none {a : Nat} (h : csrAt a = none) (rd : Reg) (s : State) :
    exec (.csrr rd a) s = .next (Spec.errAfter s 0x02#8 (encode (.csrr rd a))) := by
  simp only [exec, execCsrr, h, raise_eq_errAfter]
  rfl

/-- STATUS as its three flags in their bit positions (R22, R25). -/
theorem statusWord_eq_append (s : State) :
    s.statusWord = (BitVec.ofBool s.ferr ++ BitVec.ofBool s.bvalid ++ BitVec.ofBool s.isOpen).setWidth 32 := by
  unfold State.statusWord
  cases s.isOpen <;> cases s.bvalid <;> cases s.ferr <;> rfl

/-- ERRLOG as its twelve bits above the bit 0 that no error sets (R25). -/
theorem errlogWord_eq_append (s : State) : s.errlogWord = (s.errlog ++ 0#1).setWidth 32 := by
  apply BitVec.eq_of_toNat_eq
  have hlog := s.errlog.isLt
  rw [State.errlogWord, BitVec.toNat_shiftLeft, BitVec.toNat_setWidth, BitVec.toNat_setWidth, toNat_append_eq_add,
    Nat.shiftLeft_eq]
  simp only [BitVec.toNat_ofNat]
  omega

/-- Settles O30: the values of the statement are those of the registers at its addresses (`csrAt_of_mem_singleCsrs`,
`csrAt_of_mem_filterCsrs`), and no register is at the others. -/
theorem csrReads : Obligations.CsrReads := by
  intro s rd
  refine ⟨decode_wordR_csrr rd, fun a v hav => ?_, fun f k v hkv => ?_,
    fun a ha => exec_csrr_none (csrAt_of_noAddress ha) rd s⟩
  · rw [← statusWord_eq_append, ← errlogWord_eq_append] at hav
    have hrow : (a, v) ∈ singleCsrs.map s.csrRow := hav
    obtain ⟨p, hp, ⟨⟩⟩ := List.mem_map.mp hrow
    exact exec_csrr (csrAt_of_mem_singleCsrs p hp) rd s
  · have hrow : (k, v) ∈ (filterCsrs f).map s.csrRow := hkv
    obtain ⟨p, hp, ⟨⟩⟩ := List.mem_map.mp hrow
    exact exec_csrr (csrAt_of_mem_filterCsrs f p hp) rd s

/-! ### CSRW -/

/-- The width of the field of a register of class CFG or RW, and 0 for the other classes (R24, R25). -/
def Csr.width : Csr → Nat
  | .version | .forder _ => 16
  | .channels | .bitsps => 8
  | .rk _ | .fshift _ => 5
  | .ftype _ => 2
  | .lagsel | .msround => 1
  | .rksum _ | .crcstored | .silcnt | .fmul _ => 32
  | _ => 0

/-- A register of class CFG or RW reads back the written value cut to its width (R24, R215). -/
theorem csrValue_csrSet_eq_mod (s : State) {c : Csr} (hc : c.cls = .cfg ∨ c.cls = .rw) (v : Word) :
    (s.csrSet c v).csrValue c = BitVec.ofNat 32 (v.toNat % 2 ^ c.width) := by
  have hcut (n : Nat) : (v.setWidth n).setWidth 32 = BitVec.ofNat 32 (v.toNat % 2 ^ n) :=
    BitVec.eq_of_toNat_eq (by simp)
  have hfull : v = BitVec.ofNat 32 (v.toNat % 2 ^ 32) := by
    rw [← hcut 32, BitVec.setWidth_eq, BitVec.setWidth_eq]
  rw [csrValue_csrSet_same]
  cases c
  case version | forder => exact hcut 16
  case channels | bitsps => exact hcut 8
  case rk | fshift => exact hcut 5
  case ftype => exact hcut 2
  case lagsel | msround => exact hcut 1
  case rksum | crcstored | silcnt | fmul => exact hfull
  all_goals simp [Csr.cls] at hc

/-- Of the CSRs a response changes SEQ alone. -/
theorem csrValue_okAfter {c : Csr} (h : c ≠ .seq) (s : State) (v : Word) :
    (Spec.okAfter s v).csrValue c = s.csrValue c := by
  cases c
  case seq => exact absurd rfl h
  all_goals rfl

theorem csrNotWritable_of_mem_roAddresses : ∀ f : Fin 8, ∀ a ∈ Spec.roAddresses f, csrNotWritable (csrAt a) = true := by
  decide

theorem csrAt_of_mem_cfgAddresses {f : Fin 8} {a width : Nat} (h : (a, width) ∈ Spec.cfgAddresses f) :
    ∃ c, csrAt a = some c ∧ c.cls = .cfg ∧ c.width = width := by
  have hmap : ∀ f : Fin 8, ∀ p ∈ Spec.cfgAddresses f,
      (csrAt p.1).map (fun c => (c.cls, c.width)) = some (.cfg, p.2) := by decide
  obtain ⟨c, hc, heq⟩ := Option.map_eq_some_iff.mp (hmap f _ h)
  exact ⟨c, hc, congrArg Prod.fst heq, congrArg Prod.snd heq⟩

theorem csrAt_of_mem_rwAddresses {a width : Nat} (h : (a, width) ∈ Spec.rwAddresses) :
    ∃ c, csrAt a = some c ∧ c.cls = .rw ∧ c.width = width := by
  have hmap : ∀ p ∈ Spec.rwAddresses, (csrAt p.1).map (fun c => (c.cls, c.width)) = some (.rw, p.2) := by decide
  obtain ⟨c, hc, heq⟩ := Option.map_eq_some_iff.mp (hmap _ h)
  exact ⟨c, hc, congrArg Prod.fst heq, congrArg Prod.snd heq⟩

theorem exec_csrw_notWritable {a : Nat} (h : csrNotWritable (csrAt a) = true) (ra : Reg) (s : State) :
    exec (.csrw a ra) s = .next (Spec.errAfter s 0x02#8 (encode (.csrw a ra))) :=
  checked_fail (e := .illegalOperand) _ (by simp [State.csrwChecks, h])

theorem exec_csrw_cfg_open {a : Nat} {c : Csr} (h : csrAt a = some c) (hc : c.cls = .cfg) {s : State}
    (ho : s.isOpen = true) (ra : Reg) :
    exec (.csrw a ra) s = .next (Spec.errAfter s 0x04#8 (encode (.csrw a ra))) :=
  checked_fail (e := .notClosed) _ (by simp [State.csrwChecks, csrNotWritable, csrIsCfg, h, hc, ho])

section
variable {a : Nat} {c : Csr} (h : csrAt a = some c) {s : State} (hro : c.cls ≠ .ro)
  (hcfg : c.cls = .cfg → s.isOpen = false) (ra : Reg)
include h hro hcfg

theorem exec_csrw : exec (.csrw a ra) s = .next (Spec.okAfter (s.csrSet c (s.reg ra)) 0#32) :=
  execCsrw_complete s ra h hro hcfg

/-- A CSRR after a CSRW that completes reads what the write has made of the register. -/
theorem exec_csrw_then_csrr : ∃ t, exec (.csrw a ra) s = .next (Spec.okAfter t 0#32) ∧
    ∀ rd : Reg, exec (.csrr rd a) (Spec.okAfter t 0#32) =
      .next (Spec.okReg (Spec.okAfter t 0#32) rd ((s.csrSet c (s.reg ra)).csrValue c)) := by
  refine ⟨_, exec_csrw h hro hcfg ra, fun rd => ?_⟩
  have hseq : c ≠ .seq := fun e => hro (by rw [e]; rfl)
  rw [exec_csrr h, csrValue_okAfter hseq]

end

/-- Settles O31: an address of the statement's lists has a register of the list's class and width, whose read-back is
that of `csrValue_csrSet_same`. -/
theorem csrWrites : Obligations.CsrWrites := by
  intro s ra
  refine ⟨decode_wordR_csrw ra, fun f a ha => ?_, fun f a width ha ho => ?_, ?_, fun f a width ha => ?_⟩
  · obtain hro | hno := ha
    · exact exec_csrw_notWritable (csrNotWritable_of_mem_roAddresses f a hro) ra s
    · exact exec_csrw_notWritable (by rw [csrAt_of_noAddress hno]; rfl) ra s
  · obtain ⟨c, hat, hcls, -⟩ := csrAt_of_mem_cfgAddresses ha
    exact exec_csrw_cfg_open hat hcls ho ra
  · rw [← errlogWord_eq_append, ← errlogWord_clearErrlog]
    exact exec_csrw_then_csrr (c := .errlog) rfl (by decide) (fun e => by cases e) ra
  · obtain ⟨ha, hclosed⟩ | ha := ha
    · obtain ⟨c, hat, hcls, rfl⟩ := csrAt_of_mem_cfgAddresses ha
      rw [← csrValue_csrSet_eq_mod s (.inl hcls)]
      exact exec_csrw_then_csrr hat (by simp [hcls]) (fun _ => hclosed) ra
    · obtain ⟨c, hat, hcls, rfl⟩ := csrAt_of_mem_rwAddresses ha
      rw [← csrValue_csrSet_eq_mod s (.inr hcls)]
      exact exec_csrw_then_csrr hat (by simp [hcls]) (by simp [hcls]) ra

/-- A CSRW that answers OK has written the register at its address. -/
theorem exec_csrw_ok {s t : State} {a : Nat} {c : Csr} {ra : Reg} (hat : csrAt a = some c)
    (h : exec (.csrw a ra) s = .next t) (hr : t.responses = s.responses ++ [⟨0#8, 0#32⟩]) :
    t = Spec.okAfter (s.csrSet c (s.reg ra)) 0#32 := by
  obtain ⟨e, -, rfl⟩ | ⟨-, hgo⟩ := checked_next h
  · have hstatus := congrArg Response.status (response_of_raise rfl hr)
    exact absurd hstatus.symm e.code_ne_zero
  · rw [hat] at hgo
    cases hgo
    rfl

/-- Settles O32: the frames of the register write (`csrSet_frame`, `csrSet_filter_frame`, `csrValue_csrSet_other`). -/
theorem csrWriteFrame : Obligations.CsrWriteFrame := by
  intro s t a c ra hat h hr
  obtain rfl := exec_csrw_ok hat h hr
  obtain ⟨hd, hseq, -, hout, hwin, -⟩ := csrSet_frame s c (s.reg ra)
  refine ⟨congrArg (· + 1) hseq, hd, hout, hwin, fun f => ?_, fun c' hc' hnseq hbytes hblock => ?_⟩
  · obtain ⟨hweights, hhist, hdelta, -⟩ := csrSet_filter_frame s c (s.reg ra) f
    exact ⟨hweights, hhist, hdelta⟩
  · rw [csrValue_okAfter hnseq, csrValue_csrSet_other s _ hc' hbytes hblock]

end Sys2Proof.Machine
end

section
/-! PROOFS. OPEN's conditions are the spec's (R30, R33), its answers in the order of its checks (R216, R234), and what
CLOSE leaves to be read and written (R217). -/

namespace Sys2Proof.Machine

/-! ### OPEN's conditions -/

theorem headerLegal_iff (s : State) : Spec.headerLegal s ↔ s.headerOk = true ∧ s.srcLen < 2 ^ 32 := by
  simp [Spec.headerLegal, State.headerOk, ← BitVec.toNat_inj, and_assoc]

theorem filterLegal_iff (p : Params) (x : Filter) : Spec.filterLegal p x ↔ x.configOk p = true := by
  have htype := x.ftype.isLt
  simp only [Spec.filterLegal, Filter.configOk, Bool.and_eq_true, Bool.or_eq_true, decide_eq_true_eq, ne_eq,
    ← BitVec.toNat_inj, BitVec.ofNat_eq_ofNat, BitVec.toNat_ofNat]
  omega

theorem filtersOk_iff (s : State) : s.filtersOk = true ↔ ∀ f, Spec.filterLegal s.cfg (s.filter f) := by
  simp [State.filtersOk, filterLegal_iff]

/-! ### OPEN's answers -/

theorem encode_openSession : encode .openSession = 0x06000000#32 := by decide

theorem exec_openSession_open {s : State} (ho : s.isOpen = true) :
    exec .openSession s = .next (Spec.errAfter s 0x04#8 0x06000000#32) := by
  rw [← encode_openSession]
  exact checked_fail (e := .notClosed) _ (by simp [State.openChecks, ho])

section
variable {s : State} (hclosed : s.isOpen = false)
include hclosed

/-- A header or a source size that is not legal is an InitializationError, whichever of the two it is. -/
theorem exec_openSession_header (hh : ¬ Spec.headerLegal s) :
    exec .openSession s = .next (Spec.errAfter s 0x09#8 0x06000000#32) := by
  rw [← encode_openSession]
  refine checked_fail (e := .initializationError) _ ?_
  cases hok : s.headerOk with
  | false => simp [State.openChecks, hclosed, hok]
  | true =>
    have hlen : 2 ^ 32 ≤ s.srcLen := Nat.le_of_not_lt fun hlt => hh ((headerLegal_iff s).mpr ⟨hok, hlt⟩)
    simpa [State.openChecks, hclosed, hok] using hlen

variable (hh : Spec.headerLegal s)
include hh

/-- With a legal header OPEN's answer is decided by its check of the filter instances. -/
theorem firstError_openChecks :
    firstError s.openChecks = if s.filtersOk then none else some .configError := by
  obtain ⟨hok, hlen⟩ := (headerLegal_iff s).mp hh
  cases hf : s.filtersOk <;> simpa [State.openChecks, hclosed, hok, hf] using hlen

theorem exec_openSession_filters (hf : ∃ f, ¬ Spec.filterLegal s.cfg (s.filter f)) :
    exec .openSession s = .next (Spec.errAfter s 0x0A#8 0x06000000#32) := by
  have hbad : ¬ s.filtersOk = true := by
    rw [filtersOk_iff, not_forall]
    exact hf
  rw [← encode_openSession]
  exact checked_fail (e := .configError) _ ((firstError_openChecks hclosed hh).trans (if_neg hbad))

theorem exec_openSession (hf : ∀ f, Spec.filterLegal s.cfg (s.filter f)) :
    exec .openSession s = .next (s.beginSession.complete 0#32) :=
  checked_pass _ ((firstError_openChecks hclosed hh).trans (if_pos ((filtersOk_iff s).mpr hf)))

end

/-- Settles O33: the spec's flushed instances are those of the state OPEN sets up (`spec_flushed_eq_flush`). -/
theorem openBeginsSession : Obligations.OpenBeginsSession := fun _ => exec_openSession

/-- Settles O34: of OPEN's checks the session's comes first and the filters' last. -/
theorem openRefusals : Obligations.OpenRefusals :=
  ⟨decodeOfEncode .openSession rfl, fun _ => ⟨exec_openSession_open, exec_openSession_header,
    exec_openSession_filters⟩⟩

/-! ### CLOSE -/

theorem encode_closeSession : encode .closeSession = 0x07000000#32 := by decide

/-- The state CLOSE leaves of an open session, before its response (R217). -/
def State.endSession (s : State) : State := { s with isOpen := false, bvalid := false }

theorem exec_closeSession_open {s : State} (ho : s.isOpen = true) :
    exec .closeSession s = .next (Spec.okAfter s.endSession 0#32) :=
  checked_isOpen_open _ _ ho

theorem exec_closeSession_closed {s : State} (hclosed : s.isOpen = false) :
    exec .closeSession s = .next (Spec.errAfter s 0x03#8 0x07000000#32) := by
  rw [← encode_closeSession]
  exact checked_isOpen_closed _ _ hclosed

/-- Of the CSRs the end of a session changes STATUS alone. -/
theorem csrValue_endSession {c : Csr} (h : c ≠ .status) (s : State) : s.endSession.csrValue c = s.csrValue c := by
  cases c
  case status => exact absurd rfl h
  all_goals rfl

/-- STATUS then holds FERR alone. -/
theorem statusWord_endSession (s : State) : s.endSession.statusWord = (BitVec.ofBool s.ferr ++ 0#2).setWidth 32 := by
  rw [statusWord_eq_append]
  cases hferr : s.ferr <;> simp [State.endSession, hferr]

theorem exec_csrr_after_close {a : Nat} {c : Csr} (hat : csrAt a = some c) (hstatus : c ≠ .status) (hseq : c ≠ .seq)
    (rd : Reg) (s : State) : exec (.csrr rd a) (Spec.okAfter s.endSession 0#32) =
      .next (Spec.okReg (Spec.okAfter s.endSession 0#32) rd (s.csrValue c)) := by
  rw [exec_csrr hat, csrValue_okAfter hseq, csrValue_endSession hstatus]

/-- A CSRW to a configuration address completes in a closed state (R24, R215). -/
theorem exec_csrw_cfg_closed {s : State} (hclosed : s.isOpen = false) {f : Fin 8} {a width : Nat}
    (h : (a, width) ∈ Spec.cfgAddresses f) (ra : Reg) :
    ∃ u, exec (.csrw a ra) s = .next u ∧ u.responses = s.responses ++ [⟨0#8, 0#32⟩] := by
  obtain ⟨c, hat, hcls, -⟩ := csrAt_of_mem_cfgAddresses h
  obtain ⟨-, -, hresp, -⟩ := csrSet_frame s c (s.reg ra)
  exact ⟨_, exec_csrw hat (by simp [hcls]) (fun _ => hclosed) ra, congrArg (· ++ _) hresp⟩

/-- Settles O35: a CSRR reads what neither the end of the session nor the response has changed (`csrValue_endSession`,
`csrValue_okAfter`), and the session a CSRW looks at is closed. -/
theorem closeKeepsEverythingElse : Obligations.CloseKeepsEverythingElse := by
  refine ⟨decodeOfEncode .closeSession rfl, fun s => ⟨fun ho => ?_, exec_closeSession_closed⟩⟩
  refine ⟨exec_closeSession_open ho, fun rd a c hat hstatus hseq => exec_csrr_after_close hat hstatus hseq rd s,
    fun rd => ?_, fun f a width ra ha => exec_csrw_cfg_closed rfl ha ra⟩
  rw [← statusWord_endSession]
  exact exec_csrr (c := .status) rfl rd _

end Sys2Proof.Machine
end

section
/-! PROOFS. Responses and errors (R230 to R243, R251): each command word's one response, what an error keeps, when
NotOpen is answered, that every step is answered unless the byte source is silent, and how the session state moves. -/

namespace Sys2Proof.Machine

/-! ### The response of a command word -/

/-- The response port takes one response and counts it once (R21, R97), so a command that has touched neither before
it responds gives exactly one (R230). -/
theorem respond_once {s u : State} {status : Byte} {v : Word} (hresp : u.responses = s.responses)
    (hseq : u.seq = s.seq) (hcode : status.toNat ≤ 0x0C) (hvalue : status ≠ 0#8 → v = 0#32) :
    ∃ r : Response, (u.respond status v).responses = s.responses ++ [r] ∧ (u.respond status v).seq = s.seq + 1 ∧
      r.status.toNat ≤ 0x0C ∧ (r.status ≠ 0#8 → r.value = 0#32) :=
  ⟨⟨status, v⟩, by simp [hresp], by simp [hseq], hcode, hvalue⟩

/-- Settles O9, by what an answered word has done: it completed, failed, or spelt no command. -/
theorem oneResponsePerCommand : Obligations.OneResponsePerCommand := by
  intro s t w h
  obtain ⟨i, u, v, -, hd, rfl⟩ | ⟨i, u, e, -, hf, rfl⟩ | ⟨why, -, rfl⟩ := runCommand_next h
  · obtain ⟨-, -, -, -, hresp, hseq, -⟩ := hd.outside
    exact respond_once hresp hseq (Nat.zero_le _) fun hne => absurd rfl hne
  · obtain ⟨-, -, -, -, hresp, hseq, -⟩ := hf.outside
    exact respond_once (u := u.record e w) hresp hseq e.code_bounds.2 fun _ => rfl
  · exact respond_once (u := s.record .illegalCommand w) rfl rfl Err.illegalCommand.code_bounds.2 fun _ => rfl

/-! ### What an error keeps -/

/-- What a failed read leaves of a SEEK, by the spec's flush (R125, R233). -/
theorem cursorLost_readDone_flushAll (s : State) : s.flushAll.readDone.cursorLost =
    { s with
      bvalid := false
      answers := s.answers.tail
      reads := s.reads + 1
      filters := Spec.flushedAll s } := by
  have hflush : s.flushAll = { s with filters := Spec.flushedAll s } := rfl
  simp only [State.cursorLost, State.readDone, hflush]

/-- But for IOError and CRCE's soft error, nothing has happened before the record (R231). -/
theorem Failed.eq_of_hard {i : Instr} {s u : State} {e : Err} (h : Failed i s u e) (hio : e ≠ .ioError)
    (hsoft : e ≠ .frameIntegrityError) : u = s := by
  cases h
  case hard => rfl
  case fill | fillr | seek => exact absurd rfl hio
  case crce => exact absurd rfl hsoft

/-- IOError is FILL's, FILLR's or SEEK's; the read is used up and the cursor lost, and SEEK's flush stays (R233). -/
theorem Failed.of_ioError {i : Instr} {s u : State} (h : Failed i s u .ioError) :
    (i = .fill ∨ ∃ ra rb, i = .fillr ra rb) ∧ u = s.readDone.cursorLost ∨
      (∃ ra rb, i = .seek ra rb) ∧ u = s.flushAll.readDone.cursorLost := by
  cases h
  case hard hio _ _ => exact absurd rfl hio
  case fill => exact .inl ⟨.inl rfl, rfl⟩
  case fillr ra rb _ => exact .inl ⟨.inr ⟨ra, rb, rfl⟩, rfl⟩
  case seek ra rb _ => exact .inr ⟨⟨ra, rb, rfl⟩, rfl⟩

/-- The soft error is CRCE's: its destination and FERR are written (R195). -/
theorem Failed.of_frameIntegrityError {i : Instr} {s u : State} (h : Failed i s u .frameIntegrityError) :
    ∃ rd, i = .crce rd ∧ u = State.setReg { s with ferr := true } rd 0#32 := by
  cases h
  case hard hsoft _ => exact absurd rfl hsoft
  case crce rd _ _ => exact ⟨rd, rfl, rfl⟩

/-- Settles O11: what the state was before the record, kind of error by kind of error. -/
theorem hardErrorsKeepState : Obligations.HardErrorsKeepState := by
  intro s t w r h hr hne
  obtain ⟨i, u, v, -, hd, rfl⟩ | ⟨i, u, e, hdec, hf, rfl⟩ | ⟨why, -, rfl⟩ := runCommand_next h
  · obtain ⟨-, -, -, -, hresp, -⟩ := hd.outside
    obtain rfl := response_of_complete hresp hr
    exact absurd rfl hne
  · obtain ⟨-, -, -, -, hresp, -, -, hopen, -⟩ := hf.outside
    obtain rfl := response_of_raise hresp hr
    refine ⟨hopen, fun hio hsoft => ?_, fun hio => ?_, fun hsoft => ?_⟩
    · obtain rfl := hf.eq_of_hard (fun he => hio (congrArg Err.code he)) (fun he => hsoft (congrArg Err.code he))
      rfl
    · obtain rfl : e = .ioError := Err.code_inj hio
      obtain ⟨rfl | ⟨ra, rb, rfl⟩, rfl⟩ | ⟨⟨ra, rb, rfl⟩, rfl⟩ := hf.of_ioError
      · exact .inl ⟨.inl hdec, rfl⟩
      · exact .inl ⟨.inr ⟨ra, rb, hdec⟩, rfl⟩
      · rw [cursorLost_readDone_flushAll]
        exact .inr ⟨⟨ra, rb, hdec⟩, rfl⟩
    · obtain rfl : e = .frameIntegrityError := Err.code_inj hsoft
      obtain ⟨rd, rfl, rfl⟩ := hf.of_frameIntegrityError
      exact ⟨rd, hdec, rfl⟩
  · obtain rfl := response_of_raise rfl hr
    exact ⟨rfl, fun _ _ => rfl, fun hio => absurd hio (by decide), fun hsoft => absurd hsoft (by decide)⟩

/-! ### NotOpen -/

section
variable {s : State} (w : Word) (rest : List (Bool × Err)) (go : Result) (hclosed : s.isOpen = false)
include hclosed

/-- Where the session check comes first, a closed session is what is answered (R240). -/
theorem checked_closed :
    checked s w ((!s.isOpen, .notOpen) :: rest) go = .next (Spec.errAfter s 0x03#8 w) :=
  checked_fail (e := .notOpen) go (by simp [hclosed])

/-- A compress command that exists has passed the check before it (R98, R240). -/
theorem checked_compress_closed (hcompress : s.cfg.hasCompress = true) :
    checked s w (s.compressChecks ++ (!s.isOpen, .notOpen) :: rest) go = .next (Spec.errAfter s 0x03#8 w) :=
  checked_fail (e := .notOpen) go (by rw [firstError_compressChecks hcompress]; simp [hclosed])

end

/-- The commands that need a session answer NotOpen while there is none (R232). -/
theorem exec_needsOpen_closed {i : Instr} {s : State} (hi : i.needsOpen = true) (hclosed : s.isOpen = false)
    (hcompress : i.isCompress = true → s.cfg.hasCompress = true) :
    exec i s = .next (Spec.errAfter s 0x03#8 (encode i)) := by
  cases i
  case nnc | foc | casc => exact checked_compress_closed _ _ _ hclosed (hcompress rfl)
  case nop | li | lih | mov | csrr | csrw | openSession | zz | sat16 | ms2lr | mono => cases hi
  all_goals exact checked_closed _ _ _ hclosed

/-- NotOpen is no other command's error, and no open session's. -/
theorem Failed.of_notOpen {i : Instr} {s u : State} (h : Failed i s u .notOpen) :
    i.needsOpen = true ∧ s.isOpen = false := by
  cases h
  case hard hcause => exact hcause rfl

/-- Settles O12: the session check is first of those the commands make, and raises NotOpen alone. -/
theorem notOpenExactlyWhileClosed : Obligations.NotOpenExactlyWhileClosed := by
  refine fun i s => ⟨exec_needsOpen_closed, fun t r h hr hstatus => ?_⟩
  obtain ⟨hok, -⟩ | ⟨-, u, e, hf, -, hcode⟩ := (exec_effect h).of_response hr
  · rw [hstatus] at hok
    exact absurd hok (by decide)
  · obtain rfl : e = .notOpen := Err.code_inj (hcode.symm.trans hstatus)
    exact hf.of_notOpen

/-! ### Every step is answered -/

theorem exec_answered_or_silent (i : Instr) (s : State) :
    Answered (exec i s) ∨
      exec i s = .fault .sourceNeverAnswers ∧ i.readsSource = true ∧ s.nextAnswer = .never := by
  by_cases h : Answered (exec i s)
  · exact .inl h
  · exact .inr (exec_stop rfl fun t ht => h ⟨t, ht⟩)

/-- Only a word that spells a command can stop. -/
theorem runCommand_answered_or_silent (w : Word) (s : State) :
    Answered (runCommand w s) ∨
      runCommand w s = .fault .sourceNeverAnswers ∧ s.nextAnswer = .never ∧
        ∃ i, decode w = .command i ∧ i.readsSource = true := by
  cases hdec : decode w with
  | command i =>
    rw [runCommand_of_decode_command hdec]
    exact (exec_answered_or_silent i s).imp_right fun ⟨hfault, hreads, hnever⟩ => ⟨hfault, hnever, i, rfl, hreads⟩
  | illegal why => exact .inl ⟨_, runCommand_of_decode_illegal hdec s⟩

/-- A reset ends a command that waits for the source as well (R270). -/
theorem resetCommand_answered (w : Word) (k : Nat) (s : State) : Answered (resetCommand w k s) := by
  unfold resetCommand
  split
  · exact ⟨_, rfl⟩
  · exact ⟨_, rfl⟩
  · exact ⟨_, rfl⟩

/-- Settles O13, by the host's next move: with none, and on a reset, the step is answered. -/
theorem stepsAnsweredUnlessSourceSilent : Obligations.StepsAnsweredUnlessSourceSilent := by
  intro s
  cases hin : s.inbox with
  | nil => exact .inl ⟨s, step_of_inbox_nil hin⟩
  | cons move rest =>
    cases move with
    | command w =>
      rw [step_of_inbox_command hin]
      exact (runCommand_answered_or_silent w { s with inbox := rest }).imp_right
        fun ⟨hfault, hnever, i, hdec, hreads⟩ => ⟨hfault, hnever, w, rest, i, rfl, hdec, hreads⟩
    | reset => exact .inl ⟨_, step_of_inbox_reset hin⟩
    | resetDuring w k =>
      rw [step_of_inbox_resetDuring hin]
      exact .inl (resetCommand_answered w k _)

/-! ### The session state -/

theorem session_congr {s u : State} (hopen : u.isOpen = s.isOpen) (hvalid : u.bvalid = s.bvalid) :
    u.session = s.session := by
  simp only [State.session, hopen, hvalid]

theorem session_of_closed {s : State} (hclosed : s.isOpen = false) : s.session = .closed := by
  simp [State.session, hclosed]

theorem session_of_invalid {s : State} (ho : s.isOpen = true) (hv : s.bvalid = false) : s.session = .initialized := by
  simp [State.session, ho, hv]

theorem session_of_valid {s : State} (ho : s.isOpen = true) (hv : s.bvalid = true) : s.session = .decoding := by
  simp [State.session, ho, hv]

section
variable {s u : State} (ho : s.isOpen = true) (huo : u.isOpen = true)
include ho huo

/-- An open session whose cursor becomes valid was Initialized, or stays Decoding. -/
theorem session_of_gained (huv : u.bvalid = true) :
    u.session = s.session ∨ s.session = .initialized ∧ u.session = .decoding := by
  cases hv : s.bvalid with
  | false => exact .inr ⟨session_of_invalid ho hv, session_of_valid huo huv⟩
  | true => exact .inl (session_congr (huo.trans ho.symm) (huv.trans hv.symm))

/-- An open session whose cursor is lost was Decoding, or stays Initialized. -/
theorem session_of_lost (huv : u.bvalid = false) :
    u.session = s.session ∨ s.session = .decoding ∧ u.session = .initialized := by
  cases hv : s.bvalid with
  | false => exact .inl (session_congr (huo.trans ho.symm) (huv.trans hv.symm))
  | true => exact .inr ⟨session_of_valid ho hv, session_of_invalid huo huv⟩

end

/-- The transitions of R251 that commands make which complete. -/
theorem Done.session_cases {i : Instr} {s u : State} {v : Word} (h : Done i s u v) :
    u.session = s.session ∨
    (i = .openSession ∧ s.session = .closed ∧ u.session = .initialized) ∨
    (i = .closeSession ∧ u.session = .closed) ∨
    ((∃ ra rb, i = .fillr ra rb ∨ i = .seek ra rb) ∧ s.session = .initialized ∧ u.session = .decoding) := by
  cases h
  case csrw ra c _ _ _ =>
    obtain ⟨-, -, -, -, -, -, -, -, -, -, -, hopen, hvalid, -⟩ := csrSet_frame s c (s.reg ra)
    exact .inl (session_congr hopen hvalid)
  case openSession hclosed _ _ _ => exact .inr (.inl ⟨rfl, session_of_closed hclosed, rfl⟩)
  case closeSession => exact .inr (.inr (.inl ⟨rfl, rfl⟩))
  case fillr ra rb ho _ _ _ _ =>
    exact .imp_right (fun hmove => .inr (.inr ⟨⟨ra, rb, .inl rfl⟩, hmove⟩)) (session_of_gained ho ho rfl)
  case seek ra rb ho _ _ _ _ =>
    exact .imp_right (fun hmove => .inr (.inr ⟨⟨ra, rb, .inr rfl⟩, hmove⟩)) (session_of_gained ho ho rfl)
  all_goals exact .inl (session_congr rfl rfl)

/-- Of the errors only IOError moves the session, and to Initialized (R233, R251). -/
theorem Failed.session_cases {i : Instr} {s u : State} {e : Err} (h : Failed i s u e) :
    u.session = s.session ∨
    (i.readsSource = true ∧ s.session = .decoding ∧ u.session = .initialized ∧ e = .ioError) := by
  cases h
  case hard | crce => exact .inl rfl
  case fill ho _ _ | fillr ho | seek ho =>
    exact .imp_right (fun ⟨hfrom, hto⟩ => ⟨rfl, hfrom, hto, rfl⟩) (session_of_lost ho ho rfl)

/-- Settles O18, by the cases of what a command can do (`exec_effect`): neither the response nor the error record moves
the session. That a valid cursor is in an open session is not needed: Closed is OPEN = 0, whatever BVALID is. -/
theorem sessionTransitions : Obligations.SessionTransitions := by
  intro i s t h _
  obtain ⟨u, v, hd, rfl⟩ | ⟨u, e, hf, rfl⟩ := exec_effect h
  · obtain hkept | hopen | hclose | hgained := hd.session_cases
    · exact .inl hkept
    · exact .inr (.inl hopen)
    · exact .inr (.inr (.inl hclose))
    · exact .inr (.inr (.inr (.inl hgained)))
  · obtain hkept | ⟨hreads, hfrom, hto, rfl⟩ := hf.session_cases
    · exact .inl hkept
    · exact .inr (.inr (.inr (.inr ⟨hreads, hfrom, hto, rfl⟩)))

/-! ### A failed source read -/

section
variable {s : State} (hfail : s.nextAnswer = .fail)
include hfail

theorem State.srcRead_of_fail (pos n : Nat) : s.srcRead pos n = .fail := by
  simp only [State.srcRead, hfail]

theorem fillFrom_fail (w : Word) (pos bi : Nat) :
    fillFrom w pos bi s = .next (s.readDone.cursorLost.raise .ioError w) := by
  simp only [fillFrom, State.srcRead_of_fail hfail]

theorem exec_fill_fail (ho : s.isOpen = true) (hv : s.bvalid = true) (hn : 0 < s.fillCount) :
    exec .fill s = .next (s.readDone.cursorLost.raise .ioError (encode .fill)) :=
  (checked_pass _ (by simp [ho, hv])).trans
    ((if_neg hn.ne').trans (by simp only [State.srcRead_of_fail hfail]))

end

/-- Settles O43: FILL's count and FILLR's and SEEK's range are the model's checks, and the read after them fails. -/
theorem failedReadIsIoError : Obligations.FailedReadIsIoError := by
  intro s ra rb ho hfail
  refine ⟨exec_fill_fail hfail ho, fun hrange => ?_⟩
  have hchecks := firstError_refillChecks_pass ho hrange
  have hseek := fillFrom_fail (s := s.flushAll) hfail (encode (.seek ra rb)) (s.reg ra).toNat (s.reg rb).toNat
  rw [cursorLost_readDone_flushAll] at hseek
  exact ⟨(checked_pass _ hchecks).trans (fillFrom_fail hfail _ _ _), (checked_pass _ hchecks).trans hseek⟩

end Sys2Proof.Machine
end

section
/-! PROOFS. A reset inside a command (R270, 93_implementation_defined.md U13, log 10): the reset state, with a beginning
of the bytes the command would have appended. -/

namespace Sys2Proof.Machine

/-- An answered word, whether or not it spells a command, only appends to the output stream
(R66, R98). -/
theorem runCommand_appends {w : Word} {s u : State} (h : runCommand w s = .next u) : ∃ bs, u.out = s.out ++ bs := by
  cases hdec : decode w with
  | command i =>
    rw [runCommand_of_decode_command hdec] at h
    obtain ⟨⟨bs, hout, -⟩, -⟩ := exec_appendsOutput_keepsCrc h
    exact ⟨bs, hout⟩
  | illegal why =>
    rw [runCommand_of_decode_illegal hdec] at h
    cases h
    exact ⟨[], (List.append_nil s.out).symm⟩

theorem resetCommand_of_runCommand_next {w : Word} {s u : State} (h : runCommand w s = .next u) (k : Nat) :
    resetCommand w k s = .next (s.abandon u k) := by
  simp only [resetCommand, h]

/-- Of the bytes `bs` the abandoned command would have appended, the first `k` stay (U13). -/
theorem out_abandon {s done : State} {bs : List Byte} (h : done.out = s.out ++ bs) (k : Nat) :
    (s.abandon done k).out = s.out ++ bs.take k := by
  calc (s.abandon done k).out = s.out ++ (done.out.drop s.out.length).take k := rfl
    _ = s.out ++ bs.take k := by rw [h, List.drop_left]

/-- Settles O8: what `resetCommand` leaves is a reset of the state before the command, but for appended bytes
(`resetCommand_next`); where the command is answered they are the first `k` of its own. -/
theorem resetInsideCommand : Obligations.ResetInsideCommand := by
  intro s w k rest hin
  obtain ⟨t, ht⟩ := resetCommand_answered w k { s with inbox := rest }
  have hout (u : State) (hu : runCommand w { s with inbox := rest } = .next u) :
      ∃ bs, u.out = s.out ++ bs ∧ t.out = s.out ++ bs.take k := by
    obtain ⟨bs, hbs⟩ := runCommand_appends hu
    rw [resetCommand_of_runCommand_next hu] at ht
    cases ht
    exact ⟨bs, hbs, out_abandon hbs k⟩
  have hstep : step s = .next t := (step_of_inbox_resetDuring hin).trans ht
  obtain ⟨bs, rfl⟩ := resetCommand_next ht
  exact ⟨_, hstep, atReset_hwReset _, rfl, rfl, rfl, rfl, rfl, hout⟩

end Sys2Proof.Machine
end
